-- ==== Sys2Proof/Word.lean ====
section
/-! DEFINITION. The machine's two word widths (00_scope.md R7: registers are 8 bits, pairs and addresses 16). -/

namespace Sys2Proof

/-- An 8-bit value: a register, a byte of memory, a byte of a port. -/
abbrev Byte := BitVec 8

/-- A 16-bit value: a register pair, an address, a port address. -/
abbrev Word := BitVec 16

end Sys2Proof
end

