-- ==== Sys2Proof/Syntax.lean ====
section
/-! DEFINITION. The instructions: one constructor per row of spec/opcode_table.json, in the table's order, and the
operand types of 30_encoding.md R117. A prefix byte is a row of the table and a constructor here, because one CPU
step fetches one prefix byte (30_encoding.md R113, 92_eei_decisions.md D38). -/

namespace Sys2Proof

/-- The 8-bit registers of table `r` (R117); the value 6, `(HL)`, is no register and has rows of its own. -/
inductive Reg8 where
  | b | c | d | e | h | l | a
  deriving DecidableEq, Repr

/-- Table `r` under an index prefix in an instruction without a memory operand: 4 and 5 name XYH and XYL (R127 (c)). -/
inductive Reg8X where
  | b | c | d | e | xyh | xyl | a
  deriving DecidableEq, Repr

/-- Table `rp` (R117). -/
inductive RegPair where
  | bc | de | hl | sp
  deriving DecidableEq, Repr

/-- Table `rp` under an index prefix: the value 2 names XY itself (R120, R313). -/
inductive IndexPair where
  | bc | de | xy | sp
  deriving DecidableEq, Repr

/-- Table `rp2` (R117), used by PUSH and POP. -/
inductive StackPair where
  | bc | de | hl | af
  deriving DecidableEq, Repr

/-- The index register a DD (IX) or FD (IY) prefix selects (R33, R125). -/
inductive IndexReg where
  | ix | iy
  deriving DecidableEq, Repr

/-- The high or the low byte of an index register (R33). -/
inductive Half where
  | hi | lo
  deriving DecidableEq, Repr

/-- Table `cc` (R117). -/
inductive Cond where
  | nz | z | nc | c | po | pe | p | m
  deriving DecidableEq, Repr

/-- The four conditions `JR cc` may test (R119, R383). -/
inductive JrCond where
  | nz | z | nc | c
  deriving DecidableEq, Repr

/-- The prefix-mode state of the decoder (10_state.md R43). -/
inductive Pfx where
  | none | cb | ed | dd | fd | ddcb | fdcb
  deriving DecidableEq, Repr

/-- The instructions. In an operand list `n` is an immediate byte, `nn` an immediate word, `d` an index displacement,
`e` a relative displacement, `b` a bit number (R11). -/
inductive Instr where
  /-- NOP (R295), `00000000`. -/
  | nop
  /-- LD rp,nn (R220), `00pp0001 llllllll hhhhhhhh`. -/
  | ldRpNn (rp : RegPair) (nn : Word)
  /-- LD (BC),A (R211), `00000010`. -/
  | ldMemBcA
  /-- LD (DE),A (R212), `00010010`. -/
  | ldMemDeA
  /-- LD (nn),HL (R226), `00100010 llllllll hhhhhhhh`. -/
  | ldMemNnHl (nn : Word)
  /-- LD (nn),A (R213), `00110010 llllllll hhhhhhhh`. -/
  | ldMemNnA (nn : Word)
  /-- INC rp (R314), `00pp0011`. -/
  | incRp (rp : RegPair)
  /-- DEC rp (R316), `00pp1011`. -/
  | decRp (rp : RegPair)
  /-- INC r (R270), `00rrr100`. -/
  | incR (r : Reg8)
  /-- INC (HL) (R271), `00110100`. -/
  | incMemHl
  /-- DEC r (R274), `00rrr101`. -/
  | decR (r : Reg8)
  /-- DEC (HL) (R275), `00110101`. -/
  | decMemHl
  /-- LD r,n (R201), `00rrr110 nnnnnnnn`. -/
  | ldRN (r : Reg8) (n : Byte)
  /-- LD (HL),n (R206), `00110110 nnnnnnnn`. -/
  | ldMemHlN (n : Byte)
  /-- RLCA (R330), `00000111`. -/
  | rlca
  /-- RRCA (R332), `00001111`. -/
  | rrca
  /-- RLA (R331), `00010111`. -/
  | rla
  /-- RRA (R333), `00011111`. -/
  | rra
  /-- DAA (R290), `00100111`. -/
  | daa
  /-- CPL (R291), `00101111`. -/
  | cpl
  /-- SCF (R294), `00110111`. -/
  | scf
  /-- CCF (R293), `00111111`. -/
  | ccf
  /-- EX AF,AF' (R236), `00001000`. -/
  | exAfAf
  /-- ADD HL,rp (R310), `00pp1001`. -/
  | addHlRp (rp : RegPair)
  /-- LD A,(BC) (R208), `00001010`. -/
  | ldAMemBc
  /-- LD A,(DE) (R209), `00011010`. -/
  | ldAMemDe
  /-- LD HL,(nn) (R223), `00101010 llllllll hhhhhhhh`. -/
  | ldHlMemNn (nn : Word)
  /-- LD A,(nn) (R210), `00111010 llllllll hhhhhhhh`. -/
  | ldAMemNn (nn : Word)
  /-- DJNZ e (R386), `00010000 eeeeeeee`. -/
  | djnz (e : Byte)
  /-- JR e (R382), `00011000 eeeeeeee`. -/
  | jr (e : Byte)
  /-- JR cc,e (R383), `001cc000 eeeeeeee`. -/
  | jrCc (cond : JrCond) (e : Byte)
  /-- LD r,r' (R200), `01rrrsss`. -/
  | ldRR (dst : Reg8) (src : Reg8)
  /-- LD r,(HL) (R202), `01rrr110`. -/
  | ldRMemHl (r : Reg8)
  /-- LD (HL),r' (R204), `01110sss`. -/
  | ldMemHlR (r : Reg8)
  /-- HALT (R296), `01110110`. -/
  | halt
  /-- ADD A,r' (R261), `10000sss`. -/
  | addAR (r : Reg8)
  /-- ADD A,(HL) (R261), `10000110`. -/
  | addAMemHl
  /-- ADD A,n (R261), `11000110 nnnnnnnn`. -/
  | addAN (n : Byte)
  /-- ADC A,r' (R262), `10001sss`. -/
  | adcAR (r : Reg8)
  /-- ADC A,(HL) (R262), `10001110`. -/
  | adcAMemHl
  /-- ADC A,n (R262), `11001110 nnnnnnnn`. -/
  | adcAN (n : Byte)
  /-- SUB r' (R263), `10010sss`. -/
  | subR (r : Reg8)
  /-- SUB (HL) (R263), `10010110`. -/
  | subMemHl
  /-- SUB n (R263), `11010110 nnnnnnnn`. -/
  | subN (n : Byte)
  /-- SBC A,r' (R264), `10011sss`. -/
  | sbcAR (r : Reg8)
  /-- SBC A,(HL) (R264), `10011110`. -/
  | sbcAMemHl
  /-- SBC A,n (R264), `11011110 nnnnnnnn`. -/
  | sbcAN (n : Byte)
  /-- AND r' (R265), `10100sss`. -/
  | andR (r : Reg8)
  /-- AND (HL) (R265), `10100110`. -/
  | andMemHl
  /-- AND n (R265), `11100110 nnnnnnnn`. -/
  | andN (n : Byte)
  /-- XOR r' (R266), `10101sss`. -/
  | xorR (r : Reg8)
  /-- XOR (HL) (R266), `10101110`. -/
  | xorMemHl
  /-- XOR n (R266), `11101110 nnnnnnnn`. -/
  | xorN (n : Byte)
  /-- OR r' (R267), `10110sss`. -/
  | orR (r : Reg8)
  /-- OR (HL) (R267), `10110110`. -/
  | orMemHl
  /-- OR n (R267), `11110110 nnnnnnnn`. -/
  | orN (n : Byte)
  /-- CP r' (R268), `10111sss`. -/
  | cpR (r : Reg8)
  /-- CP (HL) (R268), `10111110`. -/
  | cpMemHl
  /-- CP n (R268), `11111110 nnnnnnnn`. -/
  | cpN (n : Byte)
  /-- RET cc (R390), `11ccc000`. -/
  | retCc (cond : Cond)
  /-- POP qq (R233), `11pp0001`. -/
  | popQq (q : StackPair)
  /-- RET (R389), `11001001`. -/
  | ret
  /-- EXX (R237), `11011001`. -/
  | exx
  /-- JP (HL) (R384), `11101001`. -/
  | jpHl
  /-- LD SP,HL (R229), `11111001`. -/
  | ldSpHl
  /-- JP cc,nn (R381), `11ccc010 llllllll hhhhhhhh`. -/
  | jpCcNn (cond : Cond) (nn : Word)
  /-- JP nn (R380), `11000011 llllllll hhhhhhhh`. -/
  | jpNn (nn : Word)
  /-- prefix CB (R113), `11001011`. -/
  | prefixCb
  /-- OUT (n),A (R417), `11010011 nnnnnnnn`. -/
  | outNA (n : Byte)
  /-- IN A,(n) (R410), `11011011 nnnnnnnn`. -/
  | inAN (n : Byte)
  /-- EX (SP),HL (R238), `11100011`. -/
  | exMemSpHl
  /-- EX DE,HL (R235), `11101011`. -/
  | exDeHl
  /-- DI (R297), `11110011`. -/
  | di
  /-- EI (R298), `11111011`. -/
  | ei
  /-- CALL cc,nn (R388), `11ccc100 llllllll hhhhhhhh`. -/
  | callCcNn (cond : Cond) (nn : Word)
  /-- PUSH qq (R231), `11pp0101`. -/
  | pushQq (q : StackPair)
  /-- CALL nn (R387), `11001101 llllllll hhhhhhhh`. -/
  | callNn (nn : Word)
  /-- prefix DD (R113), `11011101`. -/
  | prefixDd
  /-- prefix ED (R113), `11101101`. -/
  | prefixEd
  /-- prefix FD (R113), `11111101`. -/
  | prefixFd
  /-- RST p (R393), `11ttt111`. -/
  | rst (t : BitVec 3)
  /-- RLC r' (R335), `11001011 00000sss`. -/
  | rlcR (r : Reg8)
  /-- RLC (HL) (R335), `11001011 00000110`. -/
  | rlcMemHl
  /-- RRC r' (R337), `11001011 00001sss`. -/
  | rrcR (r : Reg8)
  /-- RRC (HL) (R337), `11001011 00001110`. -/
  | rrcMemHl
  /-- RL r' (R336), `11001011 00010sss`. -/
  | rlR (r : Reg8)
  /-- RL (HL) (R336), `11001011 00010110`. -/
  | rlMemHl
  /-- RR r' (R338), `11001011 00011sss`. -/
  | rrR (r : Reg8)
  /-- RR (HL) (R338), `11001011 00011110`. -/
  | rrMemHl
  /-- SLA r' (R339), `11001011 00100sss`. -/
  | slaR (r : Reg8)
  /-- SLA (HL) (R339), `11001011 00100110`. -/
  | slaMemHl
  /-- SRA r' (R340), `11001011 00101sss`. -/
  | sraR (r : Reg8)
  /-- SRA (HL) (R340), `11001011 00101110`. -/
  | sraMemHl
  /-- SLL r' (R341), `11001011 00110sss`. -/
  | sllR (r : Reg8)
  /-- SLL (HL) (R341), `11001011 00110110`. -/
  | sllMemHl
  /-- SRL r' (R342), `11001011 00111sss`. -/
  | srlR (r : Reg8)
  /-- SRL (HL) (R342), `11001011 00111110`. -/
  | srlMemHl
  /-- BIT b,r' (R360), `11001011 01bbbsss`. -/
  | bitR (b : BitVec 3) (r : Reg8)
  /-- BIT b,(HL) (R361), `11001011 01bbb110`. -/
  | bitMemHl (b : BitVec 3)
  /-- RES b,r' (R367), `11001011 10bbbsss`. -/
  | resR (b : BitVec 3) (r : Reg8)
  /-- RES b,(HL) (R368), `11001011 10bbb110`. -/
  | resMemHl (b : BitVec 3)
  /-- SET b,r' (R363), `11001011 11bbbsss`. -/
  | setR (b : BitVec 3) (r : Reg8)
  /-- SET b,(HL) (R364), `11001011 11bbb110`. -/
  | setMemHl (b : BitVec 3)
  /-- IN r,(C) (R411), `11101101 01rrr000`. -/
  | inRC (r : Reg8)
  /-- IN (C) (R412), `11101101 01110000`. -/
  | inC
  /-- OUT (C),r (R418), `11101101 01rrr001`. -/
  | outCR (r : Reg8)
  /-- OUT (C),0 (R419), `11101101 01110001`. -/
  | outC0
  /-- SBC HL,rp (R312), `11101101 01pp0010`. -/
  | sbcHlRp (rp : RegPair)
  /-- ADC HL,rp (R311), `11101101 01pp1010`. -/
  | adcHlRp (rp : RegPair)
  /-- LD (nn),rp (R227), `11101101 01pp0011 llllllll hhhhhhhh`. -/
  | ldMemNnRp (rp : RegPair) (nn : Word)
  /-- LD rp,(nn) (R224), `11101101 01pp1011 llllllll hhhhhhhh`. -/
  | ldRpMemNn (rp : RegPair) (nn : Word)
  /-- NEG (R292), `11101101 01yyy100`. -/
  | neg (y : BitVec 3)
  /-- RETN (R392), `11101101 01yyy101`. -/
  | retn (y : BitVec 3)
  /-- RETI (R391), `11101101 01001101`. -/
  | reti
  /-- IM 0 (R299), `11101101 01y00110`. -/
  | im0 (y : BitVec 1)
  /-- IM 0 (undocumented IM 0/1) (R302), `11101101 01y01110`. -/
  | im0Undoc (y : BitVec 1)
  /-- IM 1 (R300), `11101101 01y10110`. -/
  | im1 (y : BitVec 1)
  /-- IM 2 (R301), `11101101 01y11110`. -/
  | im2 (y : BitVec 1)
  /-- LD I,A (R216), `11101101 01000111`. -/
  | ldIA
  /-- LD R,A (R217), `11101101 01001111`. -/
  | ldRA
  /-- LD A,I (R214), `11101101 01010111`. -/
  | ldAI
  /-- LD A,R (R215), `11101101 01011111`. -/
  | ldAR
  /-- RRD (R345), `11101101 01100111`. -/
  | rrd
  /-- RLD (R344), `11101101 01101111`. -/
  | rld
  /-- NOP (undefined ED) (R303), `11101101 0111y111`. -/
  | nopEd7 (y : BitVec 1)
  /-- LDI (R240), `11101101 10100000`. -/
  | ldi
  /-- LDD (R242), `11101101 10101000`. -/
  | ldd
  /-- LDIR (R241), `11101101 10110000`. -/
  | ldir
  /-- LDDR (R243), `11101101 10111000`. -/
  | lddr
  /-- CPI (R244), `11101101 10100001`. -/
  | cpi
  /-- CPD (R246), `11101101 10101001`. -/
  | cpd
  /-- CPIR (R245), `11101101 10110001`. -/
  | cpir
  /-- CPDR (R247), `11101101 10111001`. -/
  | cpdr
  /-- INI (R413), `11101101 10100010`. -/
  | ini
  /-- IND (R415), `11101101 10101010`. -/
  | ind
  /-- INIR (R414), `11101101 10110010`. -/
  | inir
  /-- INDR (R416), `11101101 10111010`. -/
  | indr
  /-- OUTI (R420), `11101101 10100011`. -/
  | outi
  /-- OUTD (R422), `11101101 10101011`. -/
  | outd
  /-- OTIR (R421), `11101101 10110011`. -/
  | otir
  /-- OTDR (R423), `11101101 10111011`. -/
  | otdr
  /-- NOP (undefined ED) (R303), `11101101 00oooooo`. -/
  | nopEd0 (o : BitVec 6)
  /-- NOP (undefined ED) (R303), `11101101 11oooooo`. -/
  | nopEd3 (o : BitVec 6)
  /-- NOP (undefined ED) (R303), `11101101 10oooooo`. -/
  | nopEd2 (o : BitVec 6)
  /-- ADD XY,rp' (R313), `11i11101 00pp1001`. -/
  | addXyRp (xy : IndexReg) (rp : IndexPair)
  /-- LD XY,nn (R221), `11i11101 00100001 llllllll hhhhhhhh`. -/
  | ldXyNn (xy : IndexReg) (nn : Word)
  /-- LD (nn),XY (R228), `11i11101 00100010 llllllll hhhhhhhh`. -/
  | ldMemNnXy (xy : IndexReg) (nn : Word)
  /-- LD XY,(nn) (R225), `11i11101 00101010 llllllll hhhhhhhh`. -/
  | ldXyMemNn (xy : IndexReg) (nn : Word)
  /-- INC XY (R315), `11i11101 00100011`. -/
  | incXy (xy : IndexReg)
  /-- DEC XY (R317), `11i11101 00101011`. -/
  | decXy (xy : IndexReg)
  /-- INC XYH/XYL (R273), `11i11101 0010r100`. -/
  | incXyHalf (xy : IndexReg) (h : Half)
  /-- DEC XYH/XYL (R277), `11i11101 0010r101`. -/
  | decXyHalf (xy : IndexReg) (h : Half)
  /-- LD XYH/XYL,n (R219), `11i11101 0010r110 nnnnnnnn`. -/
  | ldXyHalfN (xy : IndexReg) (h : Half) (n : Byte)
  /-- INC (XY+d) (R272), `11i11101 00110100 DDDDDDDD`. -/
  | incMemXy (xy : IndexReg) (d : Byte)
  /-- DEC (XY+d) (R276), `11i11101 00110101 DDDDDDDD`. -/
  | decMemXy (xy : IndexReg) (d : Byte)
  /-- LD (XY+d),n (R207), `11i11101 00110110 DDDDDDDD nnnnnnnn`. -/
  | ldMemXyN (xy : IndexReg) (d : Byte) (n : Byte)
  /-- LD r,(XY+d) (R203), `11i11101 01rrr110 DDDDDDDD`. -/
  | ldRMemXy (xy : IndexReg) (r : Reg8) (d : Byte)
  /-- LD (XY+d),r' (R205), `11i11101 01110sss DDDDDDDD`. -/
  | ldMemXyR (xy : IndexReg) (r : Reg8) (d : Byte)
  /-- LD r',r'' (R218), `11i11101 01rrrsss`. -/
  | ldXyRR (xy : IndexReg) (dst : Reg8X) (src : Reg8X)
  /-- ADD A,XYH/XYL (R261), `11i11101 1000010r`. -/
  | addAXyHalf (xy : IndexReg) (h : Half)
  /-- ADD A,(XY+d) (R261), `11i11101 10000110 DDDDDDDD`. -/
  | addAMemXy (xy : IndexReg) (d : Byte)
  /-- ADC A,XYH/XYL (R262), `11i11101 1000110r`. -/
  | adcAXyHalf (xy : IndexReg) (h : Half)
  /-- ADC A,(XY+d) (R262), `11i11101 10001110 DDDDDDDD`. -/
  | adcAMemXy (xy : IndexReg) (d : Byte)
  /-- SUB XYH/XYL (R263), `11i11101 1001010r`. -/
  | subXyHalf (xy : IndexReg) (h : Half)
  /-- SUB (XY+d) (R263), `11i11101 10010110 DDDDDDDD`. -/
  | subMemXy (xy : IndexReg) (d : Byte)
  /-- SBC A,XYH/XYL (R264), `11i11101 1001110r`. -/
  | sbcAXyHalf (xy : IndexReg) (h : Half)
  /-- SBC A,(XY+d) (R264), `11i11101 10011110 DDDDDDDD`. -/
  | sbcAMemXy (xy : IndexReg) (d : Byte)
  /-- AND XYH/XYL (R265), `11i11101 1010010r`. -/
  | andXyHalf (xy : IndexReg) (h : Half)
  /-- AND (XY+d) (R265), `11i11101 10100110 DDDDDDDD`. -/
  | andMemXy (xy : IndexReg) (d : Byte)
  /-- XOR XYH/XYL (R266), `11i11101 1010110r`. -/
  | xorXyHalf (xy : IndexReg) (h : Half)
  /-- XOR (XY+d) (R266), `11i11101 10101110 DDDDDDDD`. -/
  | xorMemXy (xy : IndexReg) (d : Byte)
  /-- OR XYH/XYL (R267), `11i11101 1011010r`. -/
  | orXyHalf (xy : IndexReg) (h : Half)
  /-- OR (XY+d) (R267), `11i11101 10110110 DDDDDDDD`. -/
  | orMemXy (xy : IndexReg) (d : Byte)
  /-- CP XYH/XYL (R268), `11i11101 1011110r`. -/
  | cpXyHalf (xy : IndexReg) (h : Half)
  /-- CP (XY+d) (R268), `11i11101 10111110 DDDDDDDD`. -/
  | cpMemXy (xy : IndexReg) (d : Byte)
  /-- POP XY (R234), `11i11101 11100001`. -/
  | popXy (xy : IndexReg)
  /-- EX (SP),XY (R239), `11i11101 11100011`. -/
  | exMemSpXy (xy : IndexReg)
  /-- PUSH XY (R232), `11i11101 11100101`. -/
  | pushXy (xy : IndexReg)
  /-- JP (XY) (R385), `11i11101 11101001`. -/
  | jpXy (xy : IndexReg)
  /-- LD SP,XY (R230), `11i11101 11111001`. -/
  | ldSpXy (xy : IndexReg)
  /-- prefix XYCB (R113), `11i11101 11001011`. -/
  | prefixXyCb (xy : IndexReg)
  /-- prefix DD (replaces) (R114), `11i11101 11011101`. -/
  | prefixDdReplaces (xy : IndexReg)
  /-- prefix ED (replaces) (R114), `11i11101 11101101`. -/
  | prefixEdReplaces (xy : IndexReg)
  /-- prefix FD (replaces) (R114), `11i11101 11111101`. -/
  | prefixFdReplaces (xy : IndexReg)
  /-- (prefix ignored) + unprefixed opcode (R126), `11i11101 oooooooo`. -/
  | prefixIgnored (xy : IndexReg) (i : Instr)
  /-- RLC (XY+d) (R335), `11i11101 11001011 DDDDDDDD 00000110`. -/
  | rlcMemXy (xy : IndexReg) (d : Byte)
  /-- RLC (XY+d),r' (R343), `11i11101 11001011 DDDDDDDD 00000sss`. -/
  | rlcMemXyR (xy : IndexReg) (d : Byte) (r : Reg8)
  /-- RRC (XY+d) (R337), `11i11101 11001011 DDDDDDDD 00001110`. -/
  | rrcMemXy (xy : IndexReg) (d : Byte)
  /-- RRC (XY+d),r' (R343), `11i11101 11001011 DDDDDDDD 00001sss`. -/
  | rrcMemXyR (xy : IndexReg) (d : Byte) (r : Reg8)
  /-- RL (XY+d) (R336), `11i11101 11001011 DDDDDDDD 00010110`. -/
  | rlMemXy (xy : IndexReg) (d : Byte)
  /-- RL (XY+d),r' (R343), `11i11101 11001011 DDDDDDDD 00010sss`. -/
  | rlMemXyR (xy : IndexReg) (d : Byte) (r : Reg8)
  /-- RR (XY+d) (R338), `11i11101 11001011 DDDDDDDD 00011110`. -/
  | rrMemXy (xy : IndexReg) (d : Byte)
  /-- RR (XY+d),r' (R343), `11i11101 11001011 DDDDDDDD 00011sss`. -/
  | rrMemXyR (xy : IndexReg) (d : Byte) (r : Reg8)
  /-- SLA (XY+d) (R339), `11i11101 11001011 DDDDDDDD 00100110`. -/
  | slaMemXy (xy : IndexReg) (d : Byte)
  /-- SLA (XY+d),r' (R343), `11i11101 11001011 DDDDDDDD 00100sss`. -/
  | slaMemXyR (xy : IndexReg) (d : Byte) (r : Reg8)
  /-- SRA (XY+d) (R340), `11i11101 11001011 DDDDDDDD 00101110`. -/
  | sraMemXy (xy : IndexReg) (d : Byte)
  /-- SRA (XY+d),r' (R343), `11i11101 11001011 DDDDDDDD 00101sss`. -/
  | sraMemXyR (xy : IndexReg) (d : Byte) (r : Reg8)
  /-- SLL (XY+d) (R341), `11i11101 11001011 DDDDDDDD 00110110`. -/
  | sllMemXy (xy : IndexReg) (d : Byte)
  /-- SLL (XY+d),r' (R343), `11i11101 11001011 DDDDDDDD 00110sss`. -/
  | sllMemXyR (xy : IndexReg) (d : Byte) (r : Reg8)
  /-- SRL (XY+d) (R342), `11i11101 11001011 DDDDDDDD 00111110`. -/
  | srlMemXy (xy : IndexReg) (d : Byte)
  /-- SRL (XY+d),r' (R343), `11i11101 11001011 DDDDDDDD 00111sss`. -/
  | srlMemXyR (xy : IndexReg) (d : Byte) (r : Reg8)
  /-- BIT b,(XY+d) (R362), `11i11101 11001011 DDDDDDDD 01bbb110`. -/
  | bitMemXy (xy : IndexReg) (d : Byte) (b : BitVec 3)
  /-- BIT b,(XY+d) (R362), `11i11101 11001011 DDDDDDDD 01bbbsss`. -/
  | bitMemXyDup (xy : IndexReg) (d : Byte) (b : BitVec 3) (r : Reg8)
  /-- RES b,(XY+d) (R369), `11i11101 11001011 DDDDDDDD 10bbb110`. -/
  | resMemXy (xy : IndexReg) (d : Byte) (b : BitVec 3)
  /-- RES b,(XY+d),r' (R370), `11i11101 11001011 DDDDDDDD 10bbbsss`. -/
  | resMemXyR (xy : IndexReg) (d : Byte) (b : BitVec 3) (r : Reg8)
  /-- SET b,(XY+d) (R365), `11i11101 11001011 DDDDDDDD 11bbb110`. -/
  | setMemXy (xy : IndexReg) (d : Byte) (b : BitVec 3)
  /-- SET b,(XY+d),r' (R366), `11i11101 11001011 DDDDDDDD 11bbbsss`. -/
  | setMemXyR (xy : IndexReg) (d : Byte) (b : BitVec 3) (r : Reg8)
  deriving DecidableEq, Repr

end Sys2Proof
end

