-- ==== Sys2Proof/WellFormed.lean ====
section
/-! DEFINITION. Which terms of `Instr` stand for an encoding: the checks the operand types do not make. -/

namespace Sys2Proof

/-- XYH or XYL: the operands that make `LD` a row of its own under an index prefix (40_load_exchange.md R218). -/
def Reg8X.isHalf : Reg8X → Bool
  | .xyh => true
  | .xyl => true
  | _ => false

/-- The 8-bit registers an index prefix leaves alone (30_encoding.md R126: not H, not L). -/
def Reg8.ignoresPrefix : Reg8 → Bool
  | .h => false
  | .l => false
  | _ => true

/-- The register pairs an index prefix leaves alone (30_encoding.md R126). -/
def RegPair.ignoresPrefix : RegPair → Bool
  | .hl => false
  | _ => true

/-- The stack pairs an index prefix leaves alone (30_encoding.md R126). -/
def StackPair.ignoresPrefix : StackPair → Bool
  | .hl => false
  | _ => true

/-- The unprefixed instructions that a DD or FD prefix leaves as they are: those that use neither H, L nor HL as an
operand the prefix replaces (30_encoding.md R126; EX DE,HL and EXX are among them). -/
def Instr.ignoresPrefix : Instr → Bool
  | .nop | .ldMemBcA | .ldMemDeA | .ldMemNnA _ => true
  | .ldRpNn rp _ | .incRp rp | .decRp rp => rp.ignoresPrefix
  | .incR r | .decR r | .ldRN r _ => r.ignoresPrefix
  | .rlca | .rrca | .rla | .rra | .daa | .cpl | .scf | .ccf | .exAfAf => true
  | .ldAMemBc | .ldAMemDe | .ldAMemNn _ | .djnz _ | .jr _ | .jrCc _ _ => true
  | .ldRR dst src => dst.ignoresPrefix && src.ignoresPrefix
  | .halt => true
  | .addAR r | .adcAR r | .subR r | .sbcAR r | .andR r | .xorR r | .orR r | .cpR r => r.ignoresPrefix
  | .addAN _ | .adcAN _ | .subN _ | .sbcAN _ | .andN _ | .xorN _ | .orN _ | .cpN _ => true
  | .retCc _ | .ret | .exx | .jpCcNn _ _ | .jpNn _ | .outNA _ | .inAN _ | .exDeHl | .di | .ei => true
  | .popQq q | .pushQq q => q.ignoresPrefix
  | .callCcNn _ _ | .callNn _ | .rst _ => true
  | _ => false

/-- The opcode byte `10oooooo` is one of the sixteen block instructions: y ≥ 4 and z ≤ 3 (30_encoding.md R124). -/
def isBlockOpcode (o : BitVec 6) : Bool := o.getLsbD 5 && !o.getLsbD 2

/-- A term that stands for an encoding. Everything the operand types already ensure is not checked again.
R218: at least one operand of the XYH/XYL load is a half. R392: ED 4D is RETI, not a RETN. R124: the block instructions
are no undefined opcodes. R126: only an opcode that is not indexable ignores the prefix. -/
def Instr.wellFormed : Instr → Bool
  | .ldXyRR _ dst src => dst.isHalf || src.isHalf
  | .retn y => y != 1
  | .nopEd2 o => !isBlockOpcode o
  | .prefixIgnored _ i => i.ignoresPrefix
  | _ => true

end Sys2Proof
end

