-- ==== Sys2Proof/Decode.lean ====
section
/-! DEFINITION. Decoding and encoding (30_encoding.md). `decode` is one CPU step's decoding: the prefix-mode state and
the bytes at PC give one row of the table and the bytes after it. It follows R122 to R128 field by field, total on any
bytes, rejecting by name. After it the encoder, written from the encoding column of spec/opcode_table.json. -/

namespace Sys2Proof

/-! ### Fields of an opcode byte (R116) and the operand tables (R117) -/

/-- Field x. -/
def fieldX (op : Byte) : BitVec 2 := op.extractLsb' 6 2
/-- Field y. -/
def fieldY (op : Byte) : BitVec 3 := op.extractLsb' 3 3
/-- Field z. -/
def fieldZ (op : Byte) : BitVec 3 := op.extractLsb' 0 3
/-- Field p. -/
def fieldP (op : Byte) : BitVec 2 := op.extractLsb' 4 2
/-- Field q. -/
def fieldQ (op : Byte) : Bool := op.getLsbD 3

/-- The value of a register in table `r`. -/
def Reg8.code : Reg8 → BitVec 3
  | .b => 0 | .c => 1 | .d => 2 | .e => 3 | .h => 4 | .l => 5 | .a => 7

/-- Table `r`; `none` is the value 6, the memory operand. -/
def Reg8.ofCode (v : BitVec 3) : Option Reg8 :=
  match v.toNat with
  | 0 => some .b | 1 => some .c | 2 => some .d | 3 => some .e | 4 => some .h | 5 => some .l | 6 => none | _ => some .a

/-- The value of a register in table `r` with XYH and XYL in place of H and L (R127 (c)). -/
def Reg8X.code : Reg8X → BitVec 3
  | .b => 0 | .c => 1 | .d => 2 | .e => 3 | .xyh => 4 | .xyl => 5 | .a => 7

/-- Table `r` with XYH and XYL in place of H and L; `none` is the memory operand. -/
def Reg8X.ofCode (v : BitVec 3) : Option Reg8X :=
  match v.toNat with
  | 0 => some .b | 1 => some .c | 2 => some .d | 3 => some .e | 4 => some .xyh | 5 => some .xyl | 6 => none | _ => some .a

/-- The value of a pair in table `rp`. -/
def RegPair.code : RegPair → BitVec 2
  | .bc => 0 | .de => 1 | .hl => 2 | .sp => 3

/-- Table `rp`. -/
def RegPair.ofCode (v : BitVec 2) : RegPair :=
  match v.toNat with
  | 0 => .bc | 1 => .de | 2 => .hl | _ => .sp

/-- The value of a pair in table `rp` under an index prefix. -/
def IndexPair.code : IndexPair → BitVec 2
  | .bc => 0 | .de => 1 | .xy => 2 | .sp => 3

/-- Table `rp` under an index prefix. -/
def IndexPair.ofCode (v : BitVec 2) : IndexPair :=
  match v.toNat with
  | 0 => .bc | 1 => .de | 2 => .xy | _ => .sp

/-- The value of a pair in table `rp2`. -/
def StackPair.code : StackPair → BitVec 2
  | .bc => 0 | .de => 1 | .hl => 2 | .af => 3

/-- Table `rp2`. -/
def StackPair.ofCode (v : BitVec 2) : StackPair :=
  match v.toNat with
  | 0 => .bc | 1 => .de | 2 => .hl | _ => .af

/-- The value of a condition in table `cc`. -/
def Cond.code : Cond → BitVec 3
  | .nz => 0 | .z => 1 | .nc => 2 | .c => 3 | .po => 4 | .pe => 5 | .p => 6 | .m => 7

/-- Table `cc`. -/
def Cond.ofCode (v : BitVec 3) : Cond :=
  match v.toNat with
  | 0 => .nz | 1 => .z | 2 => .nc | 3 => .c | 4 => .po | 5 => .pe | 6 => .p | _ => .m

/-- The value of a condition of `JR cc`, which is `cc[y-4]` (R119). -/
def JrCond.code : JrCond → BitVec 2
  | .nz => 0 | .z => 1 | .nc => 2 | .c => 3

/-- The conditions of `JR cc`. -/
def JrCond.ofCode (v : BitVec 2) : JrCond :=
  match v.toNat with
  | 0 => .nz | 1 => .z | 2 => .nc | _ => .c

/-- Bit 5 of the prefix byte `11i11101`: 0 for DD (IX), 1 for FD (IY). -/
def IndexReg.code : IndexReg → BitVec 1
  | .ix => 0 | .iy => 1

/-- The bit that selects the high (0) or the low (1) byte of XY. -/
def Half.code : Half → BitVec 1
  | .hi => 0 | .lo => 1

/-- The half that bit `b` selects. -/
def Half.ofBit (b : Bool) : Half := if b then .lo else .hi

/-- `{hi, lo}` (00_scope.md R8). -/
def word (hi lo : Byte) : Word := hi ++ lo
/-- `v[7:0]`. -/
def lowByte (v : Word) : Byte := v.extractLsb' 0 8
/-- `v[15:8]`. -/
def highByte (v : Word) : Byte := v.extractLsb' 8 8

/-! ### Decoding -/

/-- Why bytes are no instruction. `truncated`: they end inside one. `unmappedOpcode`: no row for the byte (R566; no byte
reaches it). `trailingBytes`: bytes are left over after a whole instruction (`decodeBytes` only). -/
inductive DecodeError where
  | truncated
  | unmappedOpcode (op : Byte)
  | trailingBytes
  deriving DecidableEq, Repr

/-- An instruction and the bytes after it, or the reason there is none. -/
abbrev DecodeResult := Except DecodeError (Instr × List Byte)

/-- An instruction with no operand byte. -/
def operandNone (i : Instr) (rest : List Byte) : DecodeResult := .ok (i, rest)

/-- An instruction with one operand byte: `n`, `e` or `d`. -/
def operandByte (i : Byte → Instr) : List Byte → DecodeResult
  | n :: rest => .ok (i n, rest)
  | [] => .error .truncated

/-- An instruction with two operand bytes, the first fetched first: `d n`. -/
def operandBytes (i : Byte → Byte → Instr) : List Byte → DecodeResult
  | d :: n :: rest => .ok (i d n, rest)
  | _ => .error .truncated

/-- An instruction with a 16-bit operand, its low byte fetched first (R111, 20_memory.md R83). -/
def operandWord (i : Word → Instr) : List Byte → DecodeResult
  | lo :: hi :: rest => .ok (i (word hi lo), rest)
  | _ => .error .truncated

/-- Unprefixed opcodes with x = 0 (R122). -/
def decodeX0 (op : Byte) (rest : List Byte) : DecodeResult :=
  match (fieldZ op).toNat with
  | 0 =>
    match (fieldY op).toNat with
    | 0 => operandNone .nop rest
    | 1 => operandNone .exAfAf rest
    | 2 => operandByte .djnz rest
    | 3 => operandByte .jr rest
    | _ => operandByte (.jrCc (JrCond.ofCode (op.extractLsb' 3 2))) rest
  | 1 =>
    if fieldQ op then operandNone (.addHlRp (RegPair.ofCode (fieldP op))) rest
    else operandWord (.ldRpNn (RegPair.ofCode (fieldP op))) rest
  | 2 =>
    match (fieldY op).toNat with
    | 0 => operandNone .ldMemBcA rest
    | 1 => operandNone .ldAMemBc rest
    | 2 => operandNone .ldMemDeA rest
    | 3 => operandNone .ldAMemDe rest
    | 4 => operandWord .ldMemNnHl rest
    | 5 => operandWord .ldHlMemNn rest
    | 6 => operandWord .ldMemNnA rest
    | _ => operandWord .ldAMemNn rest
  | 3 =>
    if fieldQ op then operandNone (.decRp (RegPair.ofCode (fieldP op))) rest
    else operandNone (.incRp (RegPair.ofCode (fieldP op))) rest
  | 4 =>
    match Reg8.ofCode (fieldY op) with
    | some r => operandNone (.incR r) rest
    | none => operandNone .incMemHl rest
  | 5 =>
    match Reg8.ofCode (fieldY op) with
    | some r => operandNone (.decR r) rest
    | none => operandNone .decMemHl rest
  | 6 =>
    match Reg8.ofCode (fieldY op) with
    | some r => operandByte (.ldRN r) rest
    | none => operandByte .ldMemHlN rest
  | _ =>
    match (fieldY op).toNat with
    | 0 => operandNone .rlca rest
    | 1 => operandNone .rrca rest
    | 2 => operandNone .rla rest
    | 3 => operandNone .rra rest
    | 4 => operandNone .daa rest
    | 5 => operandNone .cpl rest
    | 6 => operandNone .scf rest
    | _ => operandNone .ccf rest

/-- Unprefixed opcodes with x = 1: LD r,r' and HALT (R122). -/
def decodeX1 (op : Byte) : Instr :=
  match Reg8.ofCode (fieldY op), Reg8.ofCode (fieldZ op) with
  | some dst, some src => .ldRR dst src
  | some dst, none => .ldRMemHl dst
  | none, some src => .ldMemHlR src
  | none, none => .halt

/-- `alu[y]` on a register. -/
def aluR (y : BitVec 3) (r : Reg8) : Instr :=
  match y.toNat with
  | 0 => .addAR r | 1 => .adcAR r | 2 => .subR r | 3 => .sbcAR r | 4 => .andR r | 5 => .xorR r | 6 => .orR r | _ => .cpR r

/-- `alu[y]` on `(HL)`. -/
def aluMemHl (y : BitVec 3) : Instr :=
  match y.toNat with
  | 0 => .addAMemHl | 1 => .adcAMemHl | 2 => .subMemHl | 3 => .sbcAMemHl
  | 4 => .andMemHl | 5 => .xorMemHl | 6 => .orMemHl | _ => .cpMemHl

/-- `alu[y]` on an immediate. -/
def aluN (y : BitVec 3) (n : Byte) : Instr :=
  match y.toNat with
  | 0 => .addAN n | 1 => .adcAN n | 2 => .subN n | 3 => .sbcAN n | 4 => .andN n | 5 => .xorN n | 6 => .orN n | _ => .cpN n

/-- `alu[y]` on XYH or XYL. -/
def aluXyHalf (y : BitVec 3) (xy : IndexReg) (h : Half) : Instr :=
  match y.toNat with
  | 0 => .addAXyHalf xy h | 1 => .adcAXyHalf xy h | 2 => .subXyHalf xy h | 3 => .sbcAXyHalf xy h
  | 4 => .andXyHalf xy h | 5 => .xorXyHalf xy h | 6 => .orXyHalf xy h | _ => .cpXyHalf xy h

/-- `alu[y]` on `(XY+d)`. -/
def aluMemXy (y : BitVec 3) (xy : IndexReg) (d : Byte) : Instr :=
  match y.toNat with
  | 0 => .addAMemXy xy d | 1 => .adcAMemXy xy d | 2 => .subMemXy xy d | 3 => .sbcAMemXy xy d
  | 4 => .andMemXy xy d | 5 => .xorMemXy xy d | 6 => .orMemXy xy d | _ => .cpMemXy xy d

/-- Unprefixed opcodes with x = 2: the accumulator operations (R122). -/
def decodeX2 (op : Byte) : Instr :=
  match Reg8.ofCode (fieldZ op) with
  | some r => aluR (fieldY op) r
  | none => aluMemHl (fieldY op)

/-- Unprefixed opcodes with x = 3 (R122). -/
def decodeX3 (op : Byte) (rest : List Byte) : DecodeResult :=
  match (fieldZ op).toNat with
  | 0 => operandNone (.retCc (Cond.ofCode (fieldY op))) rest
  | 1 =>
    if fieldQ op then
      match (fieldP op).toNat with
      | 0 => operandNone .ret rest
      | 1 => operandNone .exx rest
      | 2 => operandNone .jpHl rest
      | _ => operandNone .ldSpHl rest
    else operandNone (.popQq (StackPair.ofCode (fieldP op))) rest
  | 2 => operandWord (.jpCcNn (Cond.ofCode (fieldY op))) rest
  | 3 =>
    match (fieldY op).toNat with
    | 0 => operandWord .jpNn rest
    | 1 => operandNone .prefixCb rest
    | 2 => operandByte .outNA rest
    | 3 => operandByte .inAN rest
    | 4 => operandNone .exMemSpHl rest
    | 5 => operandNone .exDeHl rest
    | 6 => operandNone .di rest
    | _ => operandNone .ei rest
  | 4 => operandWord (.callCcNn (Cond.ofCode (fieldY op))) rest
  | 5 =>
    if fieldQ op then
      match (fieldP op).toNat with
      | 0 => operandWord .callNn rest
      | 1 => operandNone .prefixDd rest
      | 2 => operandNone .prefixEd rest
      | _ => operandNone .prefixFd rest
    else operandNone (.pushQq (StackPair.ofCode (fieldP op))) rest
  | 6 => operandByte (aluN (fieldY op)) rest
  | _ => operandNone (.rst (fieldY op)) rest

/-- The unprefixed space (R122), the four prefix bytes among it. -/
def decodeMain (op : Byte) (rest : List Byte) : DecodeResult :=
  match (fieldX op).toNat with
  | 0 => decodeX0 op rest
  | 1 => operandNone (decodeX1 op) rest
  | 2 => operandNone (decodeX2 op) rest
  | _ => decodeX3 op rest

/-- `rot[y]` on a register. -/
def rotR (y : BitVec 3) (r : Reg8) : Instr :=
  match y.toNat with
  | 0 => .rlcR r | 1 => .rrcR r | 2 => .rlR r | 3 => .rrR r | 4 => .slaR r | 5 => .sraR r | 6 => .sllR r | _ => .srlR r

/-- `rot[y]` on `(HL)`. -/
def rotMemHl (y : BitVec 3) : Instr :=
  match y.toNat with
  | 0 => .rlcMemHl | 1 => .rrcMemHl | 2 => .rlMemHl | 3 => .rrMemHl
  | 4 => .slaMemHl | 5 => .sraMemHl | 6 => .sllMemHl | _ => .srlMemHl

/-- `rot[y]` on `(XY+d)`. -/
def rotMemXy (y : BitVec 3) (xy : IndexReg) (d : Byte) : Instr :=
  match y.toNat with
  | 0 => .rlcMemXy xy d | 1 => .rrcMemXy xy d | 2 => .rlMemXy xy d | 3 => .rrMemXy xy d
  | 4 => .slaMemXy xy d | 5 => .sraMemXy xy d | 6 => .sllMemXy xy d | _ => .srlMemXy xy d

/-- `rot[y]` on `(XY+d)` with a copy to a register. -/
def rotMemXyR (y : BitVec 3) (xy : IndexReg) (d : Byte) (r : Reg8) : Instr :=
  match y.toNat with
  | 0 => .rlcMemXyR xy d r | 1 => .rrcMemXyR xy d r | 2 => .rlMemXyR xy d r | 3 => .rrMemXyR xy d r
  | 4 => .slaMemXyR xy d r | 5 => .sraMemXyR xy d r | 6 => .sllMemXyR xy d r | _ => .srlMemXyR xy d r

/-- The CB space (R123). -/
def decodeCb (op : Byte) : Instr :=
  match (fieldX op).toNat, Reg8.ofCode (fieldZ op) with
  | 0, some r => rotR (fieldY op) r
  | 0, none => rotMemHl (fieldY op)
  | 1, some r => .bitR (fieldY op) r
  | 1, none => .bitMemHl (fieldY op)
  | 2, some r => .resR (fieldY op) r
  | 2, none => .resMemHl (fieldY op)
  | _, some r => .setR (fieldY op) r
  | _, none => .setMemHl (fieldY op)

/-- The DDCB and FDCB spaces (R128). -/
def decodeXyCb (xy : IndexReg) (d op : Byte) : Instr :=
  match (fieldX op).toNat, Reg8.ofCode (fieldZ op) with
  | 0, some r => rotMemXyR (fieldY op) xy d r
  | 0, none => rotMemXy (fieldY op) xy d
  | 1, some r => .bitMemXyDup xy d (fieldY op) r
  | 1, none => .bitMemXy xy d (fieldY op)
  | 2, some r => .resMemXyR xy d (fieldY op) r
  | 2, none => .resMemXy xy d (fieldY op)
  | _, some r => .setMemXyR xy d (fieldY op) r
  | _, none => .setMemXy xy d (fieldY op)

/-- The block instructions: row z, column y - 4 (R124). -/
def decodeBlock (op : Byte) : Instr :=
  match (op.extractLsb' 3 2).toNat, (op.extractLsb' 0 2).toNat with
  | 0, 0 => .ldi | 0, 1 => .cpi | 0, 2 => .ini | 0, _ => .outi
  | 1, 0 => .ldd | 1, 1 => .cpd | 1, 2 => .ind | 1, _ => .outd
  | 2, 0 => .ldir | 2, 1 => .cpir | 2, 2 => .inir | 2, _ => .otir
  | _, 0 => .lddr | _, 1 => .cpdr | _, 2 => .indr | _, _ => .otdr

/-- The ED space with x = 1 (R124). -/
def decodeEdX1 (op : Byte) (rest : List Byte) : DecodeResult :=
  match (fieldZ op).toNat with
  | 0 =>
    match Reg8.ofCode (fieldY op) with
    | some r => operandNone (.inRC r) rest
    | none => operandNone .inC rest
  | 1 =>
    match Reg8.ofCode (fieldY op) with
    | some r => operandNone (.outCR r) rest
    | none => operandNone .outC0 rest
  | 2 =>
    if fieldQ op then operandNone (.adcHlRp (RegPair.ofCode (fieldP op))) rest
    else operandNone (.sbcHlRp (RegPair.ofCode (fieldP op))) rest
  | 3 =>
    if fieldQ op then operandWord (.ldRpMemNn (RegPair.ofCode (fieldP op))) rest
    else operandWord (.ldMemNnRp (RegPair.ofCode (fieldP op))) rest
  | 4 => operandNone (.neg (fieldY op)) rest
  | 5 => operandNone (if fieldY op = 1 then .reti else .retn (fieldY op)) rest
  | 6 =>
    match (op.extractLsb' 3 2).toNat with
    | 0 => operandNone (.im0 (op.extractLsb' 5 1)) rest
    | 1 => operandNone (.im0Undoc (op.extractLsb' 5 1)) rest
    | 2 => operandNone (.im1 (op.extractLsb' 5 1)) rest
    | _ => operandNone (.im2 (op.extractLsb' 5 1)) rest
  | _ =>
    match (fieldY op).toNat with
    | 0 => operandNone .ldIA rest
    | 1 => operandNone .ldRA rest
    | 2 => operandNone .ldAI rest
    | 3 => operandNone .ldAR rest
    | 4 => operandNone .rrd rest
    | 5 => operandNone .rld rest
    | _ => operandNone (.nopEd7 (op.extractLsb' 3 1)) rest

/-- The ED space (R124). -/
def decodeEd (op : Byte) (rest : List Byte) : DecodeResult :=
  match (fieldX op).toNat with
  | 0 => operandNone (.nopEd0 (op.extractLsb' 0 6)) rest
  | 1 => decodeEdX1 op rest
  | 2 => operandNone (if isBlockOpcode (op.extractLsb' 0 6) then decodeBlock op else .nopEd2 (op.extractLsb' 0 6)) rest
  | _ => operandNone (.nopEd3 (op.extractLsb' 0 6)) rest

/-- The value names H, L or (HL) in table `r`. -/
def isHlField (v : BitVec 3) : Bool := v == 4 || v == 5 || v == 6

/-- The indexable opcodes (R126), less the prefix bytes. -/
def indexable (op : Byte) : Bool :=
  match (fieldX op).toNat with
  | 0 => [0x09, 0x19, 0x29, 0x39, 0x21, 0x22, 0x2A, 0x23, 0x2B, 0x24, 0x25, 0x26, 0x2C, 0x2D, 0x2E, 0x34, 0x35,
      0x36].contains op.toNat
  | 1 => (isHlField (fieldY op) || isHlField (fieldZ op)) && op != 0x76
  | 2 => isHlField (fieldZ op)
  | _ => [0xE1, 0xE3, 0xE5, 0xE9, 0xF9].contains op.toNat

/-- An indexable opcode after an index prefix (R125, R127). -/
def decodeIndexed (xy : IndexReg) (op : Byte) (rest : List Byte) : DecodeResult :=
  match (fieldX op).toNat with
  | 0 =>
    match (fieldZ op).toNat with
    | 1 =>
      if fieldQ op then operandNone (.addXyRp xy (IndexPair.ofCode (fieldP op))) rest
      else operandWord (.ldXyNn xy) rest
    | 2 => if fieldQ op then operandWord (.ldXyMemNn xy) rest else operandWord (.ldMemNnXy xy) rest
    | 3 => if fieldQ op then operandNone (.decXy xy) rest else operandNone (.incXy xy) rest
    | 4 =>
      if fieldY op = 6 then operandByte (.incMemXy xy) rest
      else operandNone (.incXyHalf xy (Half.ofBit (fieldQ op))) rest
    | 5 =>
      if fieldY op = 6 then operandByte (.decMemXy xy) rest
      else operandNone (.decXyHalf xy (Half.ofBit (fieldQ op))) rest
    | 6 =>
      if fieldY op = 6 then operandBytes (.ldMemXyN xy) rest
      else operandByte (.ldXyHalfN xy (Half.ofBit (fieldQ op))) rest
    | _ => .error (.unmappedOpcode op)
  | 1 =>
    match Reg8.ofCode (fieldY op), Reg8.ofCode (fieldZ op) with
    | some r, none => operandByte (.ldRMemXy xy r) rest
    | none, some r => operandByte (.ldMemXyR xy r) rest
    | _, _ =>
      match Reg8X.ofCode (fieldY op), Reg8X.ofCode (fieldZ op) with
      | some dst, some src => operandNone (.ldXyRR xy dst src) rest
      | _, _ => .error (.unmappedOpcode op)
  | 2 =>
    match (fieldZ op).toNat with
    | 4 => operandNone (aluXyHalf (fieldY op) xy .hi) rest
    | 5 => operandNone (aluXyHalf (fieldY op) xy .lo) rest
    | 6 => operandByte (aluMemXy (fieldY op) xy) rest
    | _ => .error (.unmappedOpcode op)
  | _ =>
    match op.toNat with
    | 0xE1 => operandNone (.popXy xy) rest
    | 0xE3 => operandNone (.exMemSpXy xy) rest
    | 0xE5 => operandNone (.pushXy xy) rest
    | 0xE9 => operandNone (.jpXy xy) rest
    | 0xF9 => operandNone (.ldSpXy xy) rest
    | _ => .error (.unmappedOpcode op)

/-- The byte after an index prefix: a further prefix byte (R114), an indexable opcode (R125), or an opcode the prefix
leaves as it is (R126). -/
def decodeAfterIndex (xy : IndexReg) (op : Byte) (rest : List Byte) : DecodeResult :=
  match op.toNat with
  | 0xCB => operandNone (.prefixXyCb xy) rest
  | 0xDD => operandNone (.prefixDdReplaces xy) rest
  | 0xED => operandNone (.prefixEdReplaces xy) rest
  | 0xFD => operandNone (.prefixFdReplaces xy) rest
  | _ =>
    if indexable op then decodeIndexed xy op rest
    else
      match decodeMain op rest with
      | .ok (i, rest') => .ok (.prefixIgnored xy i, rest')
      | .error e => .error e

/-- One CPU step's decoding in prefix-mode state `p` (R113): the row the bytes begin with, and the bytes after it. -/
def decode : Pfx → List Byte → DecodeResult
  | .none, op :: rest => decodeMain op rest
  | .cb, op :: rest => .ok (decodeCb op, rest)
  | .ed, op :: rest => decodeEd op rest
  | .dd, op :: rest => decodeAfterIndex .ix op rest
  | .fd, op :: rest => decodeAfterIndex .iy op rest
  | .ddcb, d :: op :: rest => .ok (decodeXyCb .ix d op, rest)
  | .fdcb, d :: op :: rest => .ok (decodeXyCb .iy d op, rest)
  | _, _ => .error .truncated

/-- The prefix-mode state a prefix row leaves behind (R113, R114); `none` for a row that completes an instruction. -/
def Instr.prefixAfter : Instr → Option Pfx
  | .prefixCb => some .cb
  | .prefixDd => some .dd
  | .prefixEd => some .ed
  | .prefixFd => some .fd
  | .prefixXyCb .ix => some .ddcb
  | .prefixXyCb .iy => some .fdcb
  | .prefixDdReplaces _ => some .dd
  | .prefixEdReplaces _ => some .ed
  | .prefixFdReplaces _ => some .fd
  | _ => none

/-- The steps of `decodeBytes`; `fuel` bounds the number of prefix bytes. -/
def decodeSeq : Nat → Pfx → List Byte → Except DecodeError Instr
  | 0, _, _ => .error .truncated
  | fuel + 1, p, bytes =>
    match decode p bytes with
    | .error e => .error e
    | .ok (i, []) => .ok i
    | .ok (i, b :: rest) =>
      match i.prefixAfter with
      | some p' => decodeSeq fuel p' (b :: rest)
      | none => .error .trailingBytes

/-- The instruction that exactly these bytes are, its prefix bytes among them: the CPU steps they make, starting with no
prefix pending, and the row of the last one. -/
def decodeBytes (bytes : List Byte) : Except DecodeError Instr := decodeSeq bytes.length .none bytes

/-! ### Encoding -/

/-- The index prefix byte `11i11101`. -/
def indexByte (xy : IndexReg) : Byte := 0b11#2 ++ xy.code ++ 0b11101#5

/-- The bytes of an instruction in fetch order, its prefix bytes first (the encoding column of spec/opcode_table.json). -/
def encode : Instr → List Byte
  | .nop => [0x00#8]
  | .ldRpNn rp nn => [0b00#2 ++ rp.code ++ 0b0001#4, lowByte nn, highByte nn]
  | .ldMemBcA => [0x02#8]
  | .ldMemDeA => [0x12#8]
  | .ldMemNnHl nn => [0x22#8, lowByte nn, highByte nn]
  | .ldMemNnA nn => [0x32#8, lowByte nn, highByte nn]
  | .incRp rp => [0b00#2 ++ rp.code ++ 0b0011#4]
  | .decRp rp => [0b00#2 ++ rp.code ++ 0b1011#4]
  | .incR r => [0b00#2 ++ r.code ++ 0b100#3]
  | .incMemHl => [0x34#8]
  | .decR r => [0b00#2 ++ r.code ++ 0b101#3]
  | .decMemHl => [0x35#8]
  | .ldRN r n => [0b00#2 ++ r.code ++ 0b110#3, n]
  | .ldMemHlN n => [0x36#8, n]
  | .rlca => [0x07#8]
  | .rrca => [0x0F#8]
  | .rla => [0x17#8]
  | .rra => [0x1F#8]
  | .daa => [0x27#8]
  | .cpl => [0x2F#8]
  | .scf => [0x37#8]
  | .ccf => [0x3F#8]
  | .exAfAf => [0x08#8]
  | .addHlRp rp => [0b00#2 ++ rp.code ++ 0b1001#4]
  | .ldAMemBc => [0x0A#8]
  | .ldAMemDe => [0x1A#8]
  | .ldHlMemNn nn => [0x2A#8, lowByte nn, highByte nn]
  | .ldAMemNn nn => [0x3A#8, lowByte nn, highByte nn]
  | .djnz e => [0x10#8, e]
  | .jr e => [0x18#8, e]
  | .jrCc cond e => [0b001#3 ++ cond.code ++ 0b000#3, e]
  | .ldRR dst src => [0b01#2 ++ dst.code ++ src.code]
  | .ldRMemHl r => [0b01#2 ++ r.code ++ 0b110#3]
  | .ldMemHlR r => [0b01110#5 ++ r.code]
  | .halt => [0x76#8]
  | .addAR r => [0b10000#5 ++ r.code]
  | .addAMemHl => [0x86#8]
  | .addAN n => [0xC6#8, n]
  | .adcAR r => [0b10001#5 ++ r.code]
  | .adcAMemHl => [0x8E#8]
  | .adcAN n => [0xCE#8, n]
  | .subR r => [0b10010#5 ++ r.code]
  | .subMemHl => [0x96#8]
  | .subN n => [0xD6#8, n]
  | .sbcAR r => [0b10011#5 ++ r.code]
  | .sbcAMemHl => [0x9E#8]
  | .sbcAN n => [0xDE#8, n]
  | .andR r => [0b10100#5 ++ r.code]
  | .andMemHl => [0xA6#8]
  | .andN n => [0xE6#8, n]
  | .xorR r => [0b10101#5 ++ r.code]
  | .xorMemHl => [0xAE#8]
  | .xorN n => [0xEE#8, n]
  | .orR r => [0b10110#5 ++ r.code]
  | .orMemHl => [0xB6#8]
  | .orN n => [0xF6#8, n]
  | .cpR r => [0b10111#5 ++ r.code]
  | .cpMemHl => [0xBE#8]
  | .cpN n => [0xFE#8, n]
  | .retCc cond => [0b11#2 ++ cond.code ++ 0b000#3]
  | .popQq q => [0b11#2 ++ q.code ++ 0b0001#4]
  | .ret => [0xC9#8]
  | .exx => [0xD9#8]
  | .jpHl => [0xE9#8]
  | .ldSpHl => [0xF9#8]
  | .jpCcNn cond nn => [0b11#2 ++ cond.code ++ 0b010#3, lowByte nn, highByte nn]
  | .jpNn nn => [0xC3#8, lowByte nn, highByte nn]
  | .prefixCb => [0xCB#8]
  | .outNA n => [0xD3#8, n]
  | .inAN n => [0xDB#8, n]
  | .exMemSpHl => [0xE3#8]
  | .exDeHl => [0xEB#8]
  | .di => [0xF3#8]
  | .ei => [0xFB#8]
  | .callCcNn cond nn => [0b11#2 ++ cond.code ++ 0b100#3, lowByte nn, highByte nn]
  | .pushQq q => [0b11#2 ++ q.code ++ 0b0101#4]
  | .callNn nn => [0xCD#8, lowByte nn, highByte nn]
  | .prefixDd => [0xDD#8]
  | .prefixEd => [0xED#8]
  | .prefixFd => [0xFD#8]
  | .rst t => [0b11#2 ++ t ++ 0b111#3]
  | .rlcR r => [0xCB#8, 0b00000#5 ++ r.code]
  | .rlcMemHl => [0xCB#8, 0x06#8]
  | .rrcR r => [0xCB#8, 0b00001#5 ++ r.code]
  | .rrcMemHl => [0xCB#8, 0x0E#8]
  | .rlR r => [0xCB#8, 0b00010#5 ++ r.code]
  | .rlMemHl => [0xCB#8, 0x16#8]
  | .rrR r => [0xCB#8, 0b00011#5 ++ r.code]
  | .rrMemHl => [0xCB#8, 0x1E#8]
  | .slaR r => [0xCB#8, 0b00100#5 ++ r.code]
  | .slaMemHl => [0xCB#8, 0x26#8]
  | .sraR r => [0xCB#8, 0b00101#5 ++ r.code]
  | .sraMemHl => [0xCB#8, 0x2E#8]
  | .sllR r => [0xCB#8, 0b00110#5 ++ r.code]
  | .sllMemHl => [0xCB#8, 0x36#8]
  | .srlR r => [0xCB#8, 0b00111#5 ++ r.code]
  | .srlMemHl => [0xCB#8, 0x3E#8]
  | .bitR b r => [0xCB#8, 0b01#2 ++ b ++ r.code]
  | .bitMemHl b => [0xCB#8, 0b01#2 ++ b ++ 0b110#3]
  | .resR b r => [0xCB#8, 0b10#2 ++ b ++ r.code]
  | .resMemHl b => [0xCB#8, 0b10#2 ++ b ++ 0b110#3]
  | .setR b r => [0xCB#8, 0b11#2 ++ b ++ r.code]
  | .setMemHl b => [0xCB#8, 0b11#2 ++ b ++ 0b110#3]
  | .inRC r => [0xED#8, 0b01#2 ++ r.code ++ 0b000#3]
  | .inC => [0xED#8, 0x70#8]
  | .outCR r => [0xED#8, 0b01#2 ++ r.code ++ 0b001#3]
  | .outC0 => [0xED#8, 0x71#8]
  | .sbcHlRp rp => [0xED#8, 0b01#2 ++ rp.code ++ 0b0010#4]
  | .adcHlRp rp => [0xED#8, 0b01#2 ++ rp.code ++ 0b1010#4]
  | .ldMemNnRp rp nn => [0xED#8, 0b01#2 ++ rp.code ++ 0b0011#4, lowByte nn, highByte nn]
  | .ldRpMemNn rp nn => [0xED#8, 0b01#2 ++ rp.code ++ 0b1011#4, lowByte nn, highByte nn]
  | .neg y => [0xED#8, 0b01#2 ++ y ++ 0b100#3]
  | .retn y => [0xED#8, 0b01#2 ++ y ++ 0b101#3]
  | .reti => [0xED#8, 0x4D#8]
  | .im0 y => [0xED#8, 0b01#2 ++ y ++ 0b00110#5]
  | .im0Undoc y => [0xED#8, 0b01#2 ++ y ++ 0b01110#5]
  | .im1 y => [0xED#8, 0b01#2 ++ y ++ 0b10110#5]
  | .im2 y => [0xED#8, 0b01#2 ++ y ++ 0b11110#5]
  | .ldIA => [0xED#8, 0x47#8]
  | .ldRA => [0xED#8, 0x4F#8]
  | .ldAI => [0xED#8, 0x57#8]
  | .ldAR => [0xED#8, 0x5F#8]
  | .rrd => [0xED#8, 0x67#8]
  | .rld => [0xED#8, 0x6F#8]
  | .nopEd7 y => [0xED#8, 0b0111#4 ++ y ++ 0b111#3]
  | .ldi => [0xED#8, 0xA0#8]
  | .ldd => [0xED#8, 0xA8#8]
  | .ldir => [0xED#8, 0xB0#8]
  | .lddr => [0xED#8, 0xB8#8]
  | .cpi => [0xED#8, 0xA1#8]
  | .cpd => [0xED#8, 0xA9#8]
  | .cpir => [0xED#8, 0xB1#8]
  | .cpdr => [0xED#8, 0xB9#8]
  | .ini => [0xED#8, 0xA2#8]
  | .ind => [0xED#8, 0xAA#8]
  | .inir => [0xED#8, 0xB2#8]
  | .indr => [0xED#8, 0xBA#8]
  | .outi => [0xED#8, 0xA3#8]
  | .outd => [0xED#8, 0xAB#8]
  | .otir => [0xED#8, 0xB3#8]
  | .otdr => [0xED#8, 0xBB#8]
  | .nopEd0 o => [0xED#8, 0b00#2 ++ o]
  | .nopEd3 o => [0xED#8, 0b11#2 ++ o]
  | .nopEd2 o => [0xED#8, 0b10#2 ++ o]
  | .addXyRp xy rp => [indexByte xy, 0b00#2 ++ rp.code ++ 0b1001#4]
  | .ldXyNn xy nn => [indexByte xy, 0x21#8, lowByte nn, highByte nn]
  | .ldMemNnXy xy nn => [indexByte xy, 0x22#8, lowByte nn, highByte nn]
  | .ldXyMemNn xy nn => [indexByte xy, 0x2A#8, lowByte nn, highByte nn]
  | .incXy xy => [indexByte xy, 0x23#8]
  | .decXy xy => [indexByte xy, 0x2B#8]
  | .incXyHalf xy h => [indexByte xy, 0b0010#4 ++ h.code ++ 0b100#3]
  | .decXyHalf xy h => [indexByte xy, 0b0010#4 ++ h.code ++ 0b101#3]
  | .ldXyHalfN xy h n => [indexByte xy, 0b0010#4 ++ h.code ++ 0b110#3, n]
  | .incMemXy xy d => [indexByte xy, 0x34#8, d]
  | .decMemXy xy d => [indexByte xy, 0x35#8, d]
  | .ldMemXyN xy d n => [indexByte xy, 0x36#8, d, n]
  | .ldRMemXy xy r d => [indexByte xy, 0b01#2 ++ r.code ++ 0b110#3, d]
  | .ldMemXyR xy r d => [indexByte xy, 0b01110#5 ++ r.code, d]
  | .ldXyRR xy dst src => [indexByte xy, 0b01#2 ++ dst.code ++ src.code]
  | .addAXyHalf xy h => [indexByte xy, 0b1000010#7 ++ h.code]
  | .addAMemXy xy d => [indexByte xy, 0x86#8, d]
  | .adcAXyHalf xy h => [indexByte xy, 0b1000110#7 ++ h.code]
  | .adcAMemXy xy d => [indexByte xy, 0x8E#8, d]
  | .subXyHalf xy h => [indexByte xy, 0b1001010#7 ++ h.code]
  | .subMemXy xy d => [indexByte xy, 0x96#8, d]
  | .sbcAXyHalf xy h => [indexByte xy, 0b1001110#7 ++ h.code]
  | .sbcAMemXy xy d => [indexByte xy, 0x9E#8, d]
  | .andXyHalf xy h => [indexByte xy, 0b1010010#7 ++ h.code]
  | .andMemXy xy d => [indexByte xy, 0xA6#8, d]
  | .xorXyHalf xy h => [indexByte xy, 0b1010110#7 ++ h.code]
  | .xorMemXy xy d => [indexByte xy, 0xAE#8, d]
  | .orXyHalf xy h => [indexByte xy, 0b1011010#7 ++ h.code]
  | .orMemXy xy d => [indexByte xy, 0xB6#8, d]
  | .cpXyHalf xy h => [indexByte xy, 0b1011110#7 ++ h.code]
  | .cpMemXy xy d => [indexByte xy, 0xBE#8, d]
  | .popXy xy => [indexByte xy, 0xE1#8]
  | .exMemSpXy xy => [indexByte xy, 0xE3#8]
  | .pushXy xy => [indexByte xy, 0xE5#8]
  | .jpXy xy => [indexByte xy, 0xE9#8]
  | .ldSpXy xy => [indexByte xy, 0xF9#8]
  | .prefixXyCb xy => [indexByte xy, 0xCB#8]
  | .prefixDdReplaces xy => [indexByte xy, 0xDD#8]
  | .prefixEdReplaces xy => [indexByte xy, 0xED#8]
  | .prefixFdReplaces xy => [indexByte xy, 0xFD#8]
  | .prefixIgnored xy i => indexByte xy :: encode i
  | .rlcMemXy xy d => [indexByte xy, 0xCB#8, d, 0x06#8]
  | .rlcMemXyR xy d r => [indexByte xy, 0xCB#8, d, 0b00000#5 ++ r.code]
  | .rrcMemXy xy d => [indexByte xy, 0xCB#8, d, 0x0E#8]
  | .rrcMemXyR xy d r => [indexByte xy, 0xCB#8, d, 0b00001#5 ++ r.code]
  | .rlMemXy xy d => [indexByte xy, 0xCB#8, d, 0x16#8]
  | .rlMemXyR xy d r => [indexByte xy, 0xCB#8, d, 0b00010#5 ++ r.code]
  | .rrMemXy xy d => [indexByte xy, 0xCB#8, d, 0x1E#8]
  | .rrMemXyR xy d r => [indexByte xy, 0xCB#8, d, 0b00011#5 ++ r.code]
  | .slaMemXy xy d => [indexByte xy, 0xCB#8, d, 0x26#8]
  | .slaMemXyR xy d r => [indexByte xy, 0xCB#8, d, 0b00100#5 ++ r.code]
  | .sraMemXy xy d => [indexByte xy, 0xCB#8, d, 0x2E#8]
  | .sraMemXyR xy d r => [indexByte xy, 0xCB#8, d, 0b00101#5 ++ r.code]
  | .sllMemXy xy d => [indexByte xy, 0xCB#8, d, 0x36#8]
  | .sllMemXyR xy d r => [indexByte xy, 0xCB#8, d, 0b00110#5 ++ r.code]
  | .srlMemXy xy d => [indexByte xy, 0xCB#8, d, 0x3E#8]
  | .srlMemXyR xy d r => [indexByte xy, 0xCB#8, d, 0b00111#5 ++ r.code]
  | .bitMemXy xy d b => [indexByte xy, 0xCB#8, d, 0b01#2 ++ b ++ 0b110#3]
  | .bitMemXyDup xy d b r => [indexByte xy, 0xCB#8, d, 0b01#2 ++ b ++ r.code]
  | .resMemXy xy d b => [indexByte xy, 0xCB#8, d, 0b10#2 ++ b ++ 0b110#3]
  | .resMemXyR xy d b r => [indexByte xy, 0xCB#8, d, 0b10#2 ++ b ++ r.code]
  | .setMemXy xy d b => [indexByte xy, 0xCB#8, d, 0b11#2 ++ b ++ 0b110#3]
  | .setMemXyR xy d b r => [indexByte xy, 0xCB#8, d, 0b11#2 ++ b ++ r.code]

/-! ### The words of spec/opcode_table.json -/

/-- The bytes of a word of the table: the table writes an instruction as one number whose MOST significant byte is fetched
first (its `match` for `RES b,(HL)` is 0xCB86, the byte CB being fetched first). notes/assumptions/10.md. -/
def tableBytes : Nat → Nat → List Byte
  | 0, _ => []
  | k + 1, w => BitVec.ofNat 8 (w >>> (8 * k)) :: tableBytes k w

/-- The instruction that `bytes`, followed by as few zero bytes as it takes (at most `fuel`), is. -/
def decodePadded : Nat → List Byte → Option Instr
  | 0, bytes => (decodeBytes bytes).toOption
  | fuel + 1, bytes =>
    match decodeBytes bytes with
    | .ok i => some i
    | .error .truncated => decodePadded fuel (bytes ++ [0])
    | .error _ => none

/-- The instruction the decoder reads from a word of the table with `nbits` bits, the bits above `nbits` zero. -/
def decodeTableWord (nbits w : Nat) : Option Instr := decodePadded 3 (tableBytes (nbits / 8) w)

end Sys2Proof
end

