-- ==== Sys2Proof/Machine/Params.lean ====
section
/-! DEFINITION. The parameters to which the spec gives a value for its 48K configuration (00_scope.md R7, 48_ula.md R440,
49_tzx.md R515), under the spec's names. -/

namespace Sys2Proof.Machine

/-- `IM0_ACK_TACTS` (R7, R556). -/
def im0AckTacts : Nat := 6
/-- `IM2_BUS_BYTE` (R7, R558). -/
def im2BusByte : Byte := 0xFF
/-- `FLOATING_BUS` (R7, R90). -/
def floatingBus : Byte := 0xFF
/-- `INT_PULSE_TACTS` (R7, R446). -/
def intPulseTacts : Nat := 32
/-- `FlashToggleFrames` (R7, R447). -/
def flashToggleFrames : Nat := 25
/-- The first address of RAM: 0x0000-0x3FFF is ROM (R86). -/
def ramStart : Nat := 0x4000

/-! ### Screen timing table (R440) and the quantities derived from it (R441) -/

/-- `VerticalSyncLines`. -/
def verticalSyncLines : Nat := 8
/-- `NonVisibleBorderTopLines`. -/
def nonVisibleBorderTopLines : Nat := 8
/-- `BorderTopLines`. -/
def borderTopLines : Nat := 48
/-- `DisplayLines`. -/
def displayLines : Nat := 192
/-- `BorderBottomLines`. -/
def borderBottomLines : Nat := 48
/-- `NonVisibleBorderBottomLines`. -/
def nonVisibleBorderBottomLines : Nat := 8
/-- `HorizontalBlankingTime`. -/
def horizontalBlankingTime : Nat := 40
/-- `BorderLeftTime`. -/
def borderLeftTime : Nat := 24
/-- `DisplayLineTime`. -/
def displayLineTime : Nat := 128
/-- `BorderRightTime`. -/
def borderRightTime : Nat := 24
/-- `NonVisibleBorderRightTime`. -/
def nonVisibleBorderRightTime : Nat := 8
/-- `PixelDataPrefetchTime`: in the table, changes no pixel (R440, D41). -/
def pixelDataPrefetchTime : Nat := 2
/-- `AttributeDataPrefetchTime`: in the table, changes no pixel (R440, D41). -/
def attributeDataPrefetchTime : Nat := 1
/-- Tacts of a raster line. -/
def screenLineTime : Nat :=
  horizontalBlankingTime + borderLeftTime + displayLineTime + borderRightTime + nonVisibleBorderRightTime
/-- Raster lines of a frame. -/
def rasterLines : Nat :=
  verticalSyncLines + nonVisibleBorderTopLines + borderTopLines + displayLines + borderBottomLines +
    nonVisibleBorderBottomLines
/-- `FrameTacts`. -/
def frameTacts : Nat := screenLineTime * rasterLines
/-- The first raster line with visible pixels. -/
def firstVisibleLine : Nat := verticalSyncLines + nonVisibleBorderTopLines
/-- The visible tacts of a line. -/
def visibleLineTime : Nat := borderLeftTime + displayLineTime + borderRightTime
/-- Pixels of a line, two a tact. -/
def screenWidth : Nat := 2 * visibleLineTime
/-- Visible lines. -/
def screenLines : Nat := borderTopLines + displayLines + borderBottomLines

/-! ### Tape constants (R515, R527) -/

/-- `PILOT_PL`. -/
def pilotPulse : Nat := 2168
/-- `HEADER_PILOT_COUNT`. -/
def headerPilotCount : Nat := 8063
/-- `DATA_PILOT_COUNT`. -/
def dataPilotCount : Nat := 3223
/-- `SYNC_1_PL`. -/
def sync1Pulse : Nat := 667
/-- `SYNC_2_PL`. -/
def sync2Pulse : Nat := 735
/-- `BIT_0_PL`. -/
def bit0Pulse : Nat := 855
/-- `BIT_1_PL`. -/
def bit1Pulse : Nat := 1710
/-- `TACTS_PER_MS` (R527). -/
def tactsPerMs : Nat := 3500
/-- `PAUSE_LEVEL` (R519; 90_conflicts.md C3). -/
def pauseLevel : Bool := true
/-- The level of a completed player (R524). -/
def completedLevel : Bool := true

/-! ### Entry points (R86, R557, R560, R601) -/

/-- The IM 1 entry point. -/
def im1Vector : Word := 0x0038
/-- The NMI entry point. -/
def nmiVector : Word := 0x0066

end Sys2Proof.Machine
end

