-- ==== Sys2Proof/Config.lean ====
section
/-! DEFINITION. What the machine's configuration leaves free: constants without a body, so that no proof can see
their value. The parameters to which the spec gives a value are definitions of Machine/Params.lean; the OPEN
parameters are plain data of State (`Env` in Machine/State.lean). -/

namespace Sys2Proof

/-- The EAR input at a tact when no tape plays, for a machine whose `EAR_IDLE` is not one of the two forms the spec
names (00_scope.md R7, 48_ula.md R459: OPEN). A free value; notes/assumptions/6.md. -/
opaque Config.earIdleFree : Nat → Bool

end Sys2Proof
end

