-- ==== Sys2Proof/Machine/TapeBlock.lean ====
section
/-! DEFINITION. The data of the TZX decoder (49_tzx.md): the typed blocks of R496 to R509 and the decoder's errors. -/

namespace Sys2Proof.Machine

/-- The fields of a 0x18 block before its data (R500). -/
structure CswHeader where
  /-- In ms. -/
  pauseAfter : Word
  /-- BYTE3. -/
  sampleRate : Nat
  compressionType : Byte
  /-- DWORD. -/
  pulseCount : Nat
  deriving DecidableEq, Repr

/-- The fields of a 0x19 block before its tables and its stream (R500), under the rule's names. -/
structure GeneralizedHeader where
  /-- In ms. -/
  pauseAfter : Word
  /-- TOTP, DWORD. -/
  totp : Nat
  /-- NPP. -/
  npp : Byte
  /-- ASP. -/
  asp : Byte
  /-- TOTD, DWORD. -/
  totd : Nat
  /-- NPD. -/
  npd : Byte
  /-- ASD. -/
  asd : Byte
  deriving DecidableEq, Repr

/-- An entry of a 0x28 block (R503): the offset is signed. -/
structure Selection where
  offset : Word
  text : List Byte
  deriving DecidableEq, Repr

/-- What a text of a 0x32 block says (R506). The rule names two ids. -/
inductive ArchiveTextId where
  /-- 0x00. -/
  | title
  /-- 0x01. -/
  | publisher
  /-- An id the rule leaves to the TZX format. -/
  | other (id : Byte)
  deriving DecidableEq, Repr

/-- An entry of a 0x32 block (R506). -/
structure ArchiveText where
  id : ArchiveTextId
  text : List Byte
  deriving DecidableEq, Repr

/-- A decoded TZX block: one constructor per block ID of the registry (R493), with the fields of its layout. A field
whose length the block itself declares is a list. A length or count inside a body is trusted as given (R495): what a
body holds beyond its fields is its `rest`, and a field that a body too short for it does not hold is `none`
(notes/assumptions/15.md). -/
inductive TzxBlock where
  /-- 0x10 (R496). -/
  | standardSpeed (pauseAfter : Word) (data : List Byte)
  /-- 0x11 (R497). -/
  | turboSpeed (pilotPulseLength sync1PulseLength sync2PulseLength bit0PulseLength bit1PulseLength
      pilotToneLength : Word) (usedBits : Byte) (pauseAfter : Word) (data : List Byte)
  /-- 0x12 (R498). -/
  | pureTone (pulseLength pulseCount : Word)
  /-- 0x13 (R498). -/
  | pulseSequence (pulseLengths : List Word)
  /-- 0x14 (R499). -/
  | pureData (bit0PulseLength bit1PulseLength : Word) (usedBits : Byte) (pauseAfter : Word) (data : List Byte)
  /-- 0x15 (R499). -/
  | directRecording (tactsPerSample pauseAfter : Word) (usedBits : Byte) (samples : List Byte)
  /-- 0x18 (R500): the data are the CSW data from offset 14 on. -/
  | cswRecording (header : Option CswHeader) (data : List Byte)
  /-- 0x19 (R500): the tables and the stream from offset 18 on, to which the rule gives no layout. -/
  | generalizedData (header : Option GeneralizedHeader) (tablesAndStream : List Byte)
  /-- 0x20 (R501). -/
  | pause (pauseDuration : Word)
  /-- 0x21 (R502). -/
  | groupStart (name : List Byte)
  /-- 0x22 (R502). -/
  | groupEnd
  /-- 0x23 (R503); the jump is signed. -/
  | jumpToBlock (relative : Word)
  /-- 0x24 (R503). -/
  | loopStart (repetitions : Word)
  /-- 0x25 (R503). -/
  | loopEnd
  /-- 0x26 (R503); the calls are signed. -/
  | callSequence (calls : List Word)
  /-- 0x27 (R503). -/
  | returnFromSequence
  /-- 0x28 (R503): N and its entries. -/
  | selectBlock (count : Option Byte) (entries : List Selection) (rest : List Byte)
  /-- 0x2A (R504): the L bytes after the length, none in a well-formed file. -/
  | stopIf48K (rest : List Byte)
  /-- 0x2B (R504): the signal level, 0 for low and 1 for high; no more in a well-formed file. -/
  | setSignalLevel (level : Option Byte) (rest : List Byte)
  /-- 0x30 (R505). -/
  | textDescription (text : List Byte)
  /-- 0x31 (R505). -/
  | message (seconds : Byte) (text : List Byte)
  /-- 0x32 (R506): N and its entries. -/
  | archiveInfo (count : Option Byte) (entries : List ArchiveText) (rest : List Byte)
  /-- 0x33 (R507): entries of type, id and information. -/
  | hardwareType (entries : List (Byte × Byte × Byte))
  /-- 0x35 (R507). -/
  | customInfo (identification : List Byte) (info : List Byte)
  /-- 0x5A (R508): the first seven bytes of the body, "XTape!" and 0x1A, and the two version bytes. -/
  | glue (signature : List Byte) (major minor : Byte)
  /-- 0x16, 0x17, 0x34 and 0x40 (R509): kept in the list with no fields. -/
  | deprecated (id : Byte)
  deriving DecidableEq, Repr

/-- The fatal errors of `ReadContent` (R491, R494, R495). -/
inductive TapeFormatError where
  /-- The header is shorter than 10 bytes or its signature is wrong (R491). -/
  | badHeader
  /-- A block ID outside the registry, and its offset in the file (R494). -/
  | unknownBlock (id : Byte) (offset : Nat)
  /-- A block that runs past the end of the file (R495). -/
  | truncated (id : Byte) (offset : Nat)
  deriving DecidableEq, Repr

/-- The phases of the player and of a playable block (R511, R512). -/
inductive PlayPhase where
  | none | pilot | sync | data | pause | completed
  deriving DecidableEq, Repr

end Sys2Proof.Machine
end

