-- ==== Sys2Proof/Machine/State.lean ====
section
/-! DEFINITION. The state of the machine as plain data (10_state.md): CPU, memory, ULA, tape player, and the OPEN
parameters and host inputs. The reasons a step or a host action can stop. The state after reset (R50). -/

namespace Sys2Proof.Machine

/-- The interrupt mode (R41); the value 3 is never written. -/
inductive IntMode where
  | im0 | im1 | im2
  deriving DecidableEq, Repr

/-- The CPU's registers (R30 to R47). Register pairs are views (R31): `State.bc` and the others of Machine/Ops.lean. -/
structure Cpu where
  a : Byte
  f : Byte
  b : Byte
  c : Byte
  d : Byte
  e : Byte
  h : Byte
  l : Byte
  /-- A' (R32), and so on to L'. -/
  a' : Byte
  f' : Byte
  b' : Byte
  c' : Byte
  d' : Byte
  e' : Byte
  h' : Byte
  l' : Byte
  ix : Word
  iy : Word
  sp : Word
  pc : Word
  /-- The interrupt vector register I (R38). -/
  i : Byte
  /-- The refresh register R (R39). -/
  r : Byte
  iff1 : Bool
  iff2 : Bool
  im : IntMode
  halted : Bool
  /-- `prefix` (R43). -/
  pfx : Pfx
  /-- MEMPTR, or WZ (R44). -/
  memptr : Word
  /-- Set by EI, cleared at the next sampling point (R45). -/
  eiBlock : Bool
  /-- The latch of the host's NMI request (R46). -/
  nmiPending : Bool
  /-- The tact counter (R47), an unbounded natural. -/
  tacts : Nat
  deriving DecidableEq, Repr

/-- Bytes of the 64 KiB memory as (address, byte) pairs, addresses strictly rising, no pair with the byte an unlisted
address reads as (`Memory.wf` in Machine/Cells.lean). -/
abbrev Memory := List Host.Cell

/-- A colour index 0-15 (R452). -/
abbrev Colour := BitVec 4

/-- Pixels as (row * 352 + column, colour) pairs in the same canonical form (`PixelBuffer.wf`). -/
abbrev PixelBuffer := List (Nat × Colour)

/-- The ULA (R48; 48_ula.md). `CurrentFrameTact` is derived: `tacts - frameStart` (R442). -/
structure Ula where
  /-- The absolute tact at which the current frame began (R442). -/
  frameStart : Nat
  /-- Frames completed since reset (R442). -/
  frameCount : Nat
  /-- Tacts carried over the last frame boundary (R444). -/
  overflow : Nat
  borderColour : BitVec 3
  /-- The last frame tact painted in the current frame, -1 when none (R453). -/
  lastRenderedTact : Int
  buffer : PixelBuffer
  flashPhase : Bool
  pixelLatch : Byte
  attrLatch : Byte
  earOut : Bool
  micOut : Bool
  deriving DecidableEq, Repr

/-- The tape: the decoded list and the player (R49; 49_tzx.md R511, R512). -/
structure Tape where
  /-- A tape has been loaded (R50: no tape until the host loads one). -/
  loaded : Bool
  blocks : List TzxBlock
  /-- `InitPlay` has been called since the tape was loaded and since the last reset (48_ula.md R459, R602). -/
  playing : Bool
  /-- The player's own phase: None or Completed (R511). -/
  playPhase : PlayPhase
  /-- -1 before any block (R511). -/
  currentBlockIndex : Int
  currentBlock : Option TzxBlock
  /-- The current block's phase (R512). -/
  blockPhase : PlayPhase
  byteIndex : Nat
  bitMask : Byte
  blockStart : Nat
  lastQueryTact : Nat
  deriving DecidableEq, Repr

/-- The kinds of access `CONTENTION` distinguishes: the four primitives of 00_scope.md R9. -/
inductive AccessKind where
  | memRead | memWrite | portRead | portWrite
  deriving DecidableEq, Repr

/-- One access of a step: its kind and its address or port. -/
structure Access where
  kind : AccessKind
  address : Word
  deriving DecidableEq, Repr

/-- One value of `CONTENTION` (R100): the extra tacts of an access at a frame tact. -/
structure Wait where
  frameTact : Nat
  access : Access
  extra : Nat
  deriving DecidableEq, Repr

/-- The EAR input when no tape plays, `EAR_IDLE` (00_scope.md R7, 48_ula.md R459: OPEN). -/
inductive EarIdle where
  /-- A constant level. -/
  | level (high : Bool)
  /-- The simulator convention: the EAR bit of the last ULA port write. -/
  | earOut
  /-- Any function of the tact: the free value `Config.earIdleFree`. -/
  | free
  deriving DecidableEq, Repr

/-- The five key lines of the eight half-rows, a pressed key 0 (48_ula.md R458): row i answers when address bit 8 + i of
the port is 0. -/
structure Keyboard where
  row0 : BitVec 5
  row1 : BitVec 5
  row2 : BitVec 5
  row3 : BitVec 5
  row4 : BitVec 5
  row5 : BitVec 5
  row6 : BitVec 5
  row7 : BitVec 5
  deriving DecidableEq, Repr

/-- What the spec leaves OPEN (00_scope.md R7) and what the host supplies. No step changes it. -/
structure Env where
  /-- `CONTENTION` as a finite table: the first entry that fits, else 0 extra tacts (R100). -/
  contention : List Wait
  /-- `InterruptTact` (48_ula.md R446). -/
  interruptTact : Nat
  earIdle : EarIdle
  keyboard : Keyboard
  deriving DecidableEq, Repr

/-- The machine's state. -/
structure State where
  cpu : Cpu
  mem : Memory
  ula : Ula
  tape : Tape
  env : Env
  deriving DecidableEq, Repr

/-- The configuration errors of construction (70_reset_and_hazards.md R604). -/
inductive ConfigurationError where
  /-- A ROM or RAM bank index outside the installed banks. -/
  | bankIndexOutOfRange (index : Nat)
  /-- No ROM image is supplied. -/
  | missingRomImage
  /-- A ROM image of the wrong length. -/
  | wrongRomLength (length : Nat)
  deriving DecidableEq, Repr

/-- The faults of the core (60_exceptions.md R565). No step faults (R550): both are answers to host actions. Safe: the
spec itself gives these failures. -/
inductive Fault where
  /-- Raised by the host action that loads a tape, when `ReadContent` fails (R491, R494, R495). Safe. -/
  | tapeFormat (e : TapeFormatError)
  /-- Raised by the host action that constructs the machine (R604). Safe. -/
  | configuration (e : ConfigurationError)
  deriving DecidableEq, Repr

/-- The refusals of a step (60_exceptions.md R565). -/
inductive Refusal where
  /-- Raised by an arm of `exec` whose instruction has no meaning in this model; no arm is left so. Safe. -/
  | notModelled (mnemonic : String)
  /-- Raised by a ULA port read, or by `InitPlay`, when the player reaches a block of class Refused, or a 0x11 block with
  `UsedBits` outside 1-8 (R510, R514, R525). Safe: the spec gives the block no playback. -/
  | unsupportedTapeBlock (id : Byte)
  /-- Raised by a ULA port read whose tact is below the player's last query (R521). Safe: no run reaches it. -/
  | tapeTimeReversed
  /-- Raised by a ULA port read of a playing tape that holds no current block and is not completed: the spec's player
never is so (R513, R522). Safe: no run reaches it. -/
  | noCurrentTapeBlock
  /-- Raised by a device call whose tact is below the device's previous one (48_ula.md R455). Safe: no run reaches it. -/
  | nonMonotonicDeviceTact
  /-- Raised by the fetch when the decoder has no row for the bytes (R566). Safe: no bytes reach it. -/
  | unmappedOpcode
  /-- Raised by `exec` on a term that is no instruction: an ignored prefix before a row the prefix does not leave alone
  (`Instr.wellFormed`). Safe: the decoder gives no such term. -/
  | illFormedInstruction
  deriving DecidableEq, Repr

/-- The CPU after reset (R50, R600). The registers the spec leaves a draw hold the simulator convention 0xFFFF per pair:
notes/assumptions/1.md. -/
def Cpu.reset : Cpu where
  a := 0xFF
  f := 0xFF
  b := 0xFF
  c := 0xFF
  d := 0xFF
  e := 0xFF
  h := 0xFF
  l := 0xFF
  a' := 0xFF
  f' := 0xFF
  b' := 0xFF
  c' := 0xFF
  d' := 0xFF
  e' := 0xFF
  h' := 0xFF
  l' := 0xFF
  ix := 0xFFFF
  iy := 0xFFFF
  sp := 0xFFFF
  pc := 0x0000
  i := 0x00
  r := 0x00
  iff1 := false
  iff2 := false
  im := .im0
  halted := false
  pfx := .none
  memptr := 0x0000
  eiBlock := false
  nmiPending := false
  tacts := 0

/-- The ULA after reset (R50, R602). The draws hold 0: notes/assumptions/3.md. -/
def Ula.reset : Ula where
  frameStart := 0
  frameCount := 0
  overflow := 0
  borderColour := 0
  lastRenderedTact := -1
  buffer := []
  flashPhase := false
  pixelLatch := 0
  attrLatch := 0
  earOut := false
  micOut := false

/-- No tape (R50). The player's fields before the first `InitPlay`: notes/assumptions/14.md. -/
def Tape.empty : Tape where
  loaded := false
  blocks := []
  playing := false
  playPhase := .none
  currentBlockIndex := -1
  currentBlock := none
  blockPhase := .none
  byteIndex := 0
  bitMask := 0x80
  blockStart := 0
  lastQueryTact := 0

/-- No key pressed (48_ula.md R458). -/
def Keyboard.idle : Keyboard where
  row0 := 0x1F
  row1 := 0x1F
  row2 := 0x1F
  row3 := 0x1F
  row4 := 0x1F
  row5 := 0x1F
  row6 := 0x1F
  row7 := 0x1F

/-- The OPEN parameters as the spec's vectors take them: notes/assumptions/4.md to 7.md. -/
def Env.initial : Env where
  contention := []
  interruptTact := 0
  earIdle := .earOut
  keyboard := Keyboard.idle

/-- The machine right after power-on reset (R50, R600 to R602), memory with nothing listed. -/
def State.reset : State where
  cpu := Cpu.reset
  mem := []
  ula := Ula.reset
  tape := Tape.empty
  env := Env.initial

end Sys2Proof.Machine
end

