-- ==== Sys2Proof/Machine/Cells.lean ====
section
/-! DEFINITION. Sparse maps from addresses to values in one canonical form, and with them the bytes of memory and the
pixels of the buffer. What an unlisted address reads as is decided here (notes/assumptions/2.md, 3.md). -/

namespace Sys2Proof.Machine

/-- The value at a key: that of the first pair with the key, `unlisted` where there is none. -/
def Cells.get {α : Type} (unlisted : α) : List (Nat × α) → Nat → α
  | [], _ => unlisted
  | (k', v) :: rest, k => if k = k' then v else Cells.get unlisted rest k

/-- The pairs with the value `v` at `k`, in rising order of their keys. -/
def Cells.insert {α : Type} (k : Nat) (v : α) : List (Nat × α) → List (Nat × α)
  | [] => [(k, v)]
  | (k', v') :: rest =>
    if k < k' then (k, v) :: (k', v') :: rest
    else if k = k' then (k, v) :: rest
    else (k', v') :: Cells.insert k v rest

/-- The pairs without the key `k`. -/
def Cells.erase {α : Type} (k : Nat) : List (Nat × α) → List (Nat × α)
  | [] => []
  | (k', v') :: rest => if k = k' then Cells.erase k rest else (k', v') :: Cells.erase k rest

/-- The map with the value `v` at `k`; the value an unlisted key has is not listed. -/
def Cells.set {α : Type} [DecidableEq α] (unlisted : α) (k : Nat) (v : α) (cells : List (Nat × α)) : List (Nat × α) :=
  if v = unlisted then Cells.erase k cells else Cells.insert k v cells

/-- Every key of the pairs is above `k`. -/
def Cells.above {α : Type} (k : Nat) : List (Nat × α) → Bool
  | [] => true
  | (k', _) :: rest => decide (k < k') && Cells.above k rest

/-- The canonical form: keys strictly rising and below `size`, no pair with the unlisted value. -/
def Cells.wf {α : Type} [DecidableEq α] (unlisted : α) (size : Nat) : List (Nat × α) → Bool
  | [] => true
  | (k, v) :: rest => decide (k < size) && decide (v ≠ unlisted) && Cells.above k rest && Cells.wf unlisted size rest

/-- What an address that is not listed reads as (notes/assumptions/2.md). -/
def Memory.unlisted : Byte := 0x00

/-- The byte at an address (R81). -/
def Memory.read (m : Memory) (a : Nat) : Byte := Cells.get Memory.unlisted m a

/-- The memory with the byte `v` at `a`, whatever the map says of `a` (R82 is `State.memWrite`). -/
def Memory.store (m : Memory) (a : Nat) (v : Byte) : Memory := Cells.set Memory.unlisted a v m

/-- The canonical form of memory: 64 KiB, addresses strictly rising, no byte an unlisted address reads as. -/
def Memory.wf (m : Memory) : Bool := Cells.wf Memory.unlisted 65536 m

/-- What a pixel that is not listed shows (notes/assumptions/3.md). -/
def PixelBuffer.unlisted : Colour := 0

/-- The colour at (row, column) of the buffer (R450). -/
def PixelBuffer.read (b : PixelBuffer) (row col : Nat) : Colour :=
  Cells.get PixelBuffer.unlisted b (row * screenWidth + col)

/-- The buffer with a colour at (row, column) (R450). -/
def PixelBuffer.store (b : PixelBuffer) (row col : Nat) (v : Colour) : PixelBuffer :=
  Cells.set PixelBuffer.unlisted (row * screenWidth + col) v b

/-- The canonical form of the pixel buffer: 288 rows of 352 pixels. -/
def PixelBuffer.wf (b : PixelBuffer) : Bool := Cells.wf PixelBuffer.unlisted (screenLines * screenWidth) b

end Sys2Proof.Machine
end

