-- ==== Sys2Proof/Machine/Ops.lean ====
section
/-! DEFINITION. The named operations over registers, memory and the tact counter (10_state.md, 20_memory.md), the stack
(40_load_exchange.md R222), and taking an interrupt and returning from one (60_exceptions.md). -/

namespace Sys2Proof.Machine

/-- How a step or a meaning ends. -/
abbrev Result := Host.Outcome State Fault Refusal

/-- Go on with the value of an outcome, or end as it ended. -/
def andThen {α β : Type} (o : Host.Outcome α Fault Refusal) (k : α → Host.Outcome β Fault Refusal) :
    Host.Outcome β Fault Refusal :=
  match o with
  | .next x => k x
  | .fault e => .fault e
  | .refused r => .refused r

/-! ### Registers and their views (R30 to R34) -/

/-- Read a register of table `r` (R118). -/
def State.reg (s : State) : Reg8 → Byte
  | .b => s.cpu.b
  | .c => s.cpu.c
  | .d => s.cpu.d
  | .e => s.cpu.e
  | .h => s.cpu.h
  | .l => s.cpu.l
  | .a => s.cpu.a

/-- The CPU with a register of table `r` written. -/
def Cpu.setReg (c : Cpu) (r : Reg8) (v : Byte) : Cpu :=
  match r with
  | .b => { c with b := v }
  | .c => { c with c := v }
  | .d => { c with d := v }
  | .e => { c with e := v }
  | .h => { c with h := v }
  | .l => { c with l := v }
  | .a => { c with a := v }

/-- Write a register of table `r`. -/
def State.setReg (s : State) (r : Reg8) (v : Byte) : State := { s with cpu := s.cpu.setReg r v }

/-- Write A. -/
def State.setA (s : State) (v : Byte) : State := { s with cpu := { s.cpu with a := v } }

/-- Write F. -/
def State.setF (s : State) (v : Byte) : State := { s with cpu := { s.cpu with f := v } }

/-- The pair AF (R31). -/
def State.af (s : State) : Word := word s.cpu.a s.cpu.f
/-- The pair BC (R31). -/
def State.bc (s : State) : Word := word s.cpu.b s.cpu.c
/-- The pair DE (R31). -/
def State.de (s : State) : Word := word s.cpu.d s.cpu.e
/-- The pair HL (R31). -/
def State.hl (s : State) : Word := word s.cpu.h s.cpu.l

/-- Write the pair BC. -/
def State.setBc (s : State) (v : Word) : State :=
  { s with cpu := { s.cpu with b := highByte v, c := lowByte v } }
/-- Write the pair DE. -/
def State.setDe (s : State) (v : Word) : State :=
  { s with cpu := { s.cpu with d := highByte v, e := lowByte v } }
/-- Write the pair HL. -/
def State.setHl (s : State) (v : Word) : State :=
  { s with cpu := { s.cpu with h := highByte v, l := lowByte v } }
/-- Write the pair AF. -/
def State.setAf (s : State) (v : Word) : State :=
  { s with cpu := { s.cpu with a := highByte v, f := lowByte v } }
/-- Write SP. -/
def State.setSp (s : State) (v : Word) : State := { s with cpu := { s.cpu with sp := v } }
/-- Write PC. -/
def State.setPc (s : State) (v : Word) : State := { s with cpu := { s.cpu with pc := v } }
/-- Write I (R38). -/
def State.setI (s : State) (v : Byte) : State := { s with cpu := { s.cpu with i := v } }
/-- Write R, all eight bits (R39). -/
def State.setR (s : State) (v : Byte) : State := { s with cpu := { s.cpu with r := v } }
/-- Write MEMPTR (R44). -/
def State.setMemptr (s : State) (v : Word) : State := { s with cpu := { s.cpu with memptr := v } }
/-- Write the prefix-mode state (R43). -/
def State.setPfx (s : State) (p : Pfx) : State := { s with cpu := { s.cpu with pfx := p } }
/-- Write both interrupt flip-flops (R40). -/
def State.setIff (s : State) (iff1 iff2 : Bool) : State :=
  { s with cpu := { s.cpu with iff1 := iff1, iff2 := iff2 } }
/-- Write the interrupt mode (R41). -/
def State.setIm (s : State) (m : IntMode) : State := { s with cpu := { s.cpu with im := m } }
/-- Write `halted` (R42). -/
def State.setHalted (s : State) (b : Bool) : State := { s with cpu := { s.cpu with halted := b } }
/-- Write `eiBlock` (R45). -/
def State.setEiBlock (s : State) (b : Bool) : State := { s with cpu := { s.cpu with eiBlock := b } }
/-- Write `nmiPending` (R46). -/
def State.setNmiPending (s : State) (b : Bool) : State := { s with cpu := { s.cpu with nmiPending := b } }

/-- Read a pair of table `rp` (R120). -/
def State.rp (s : State) : RegPair → Word
  | .bc => s.bc
  | .de => s.de
  | .hl => s.hl
  | .sp => s.cpu.sp

/-- Write a pair of table `rp`. -/
def State.setRp (s : State) (p : RegPair) (v : Word) : State :=
  match p with
  | .bc => s.setBc v
  | .de => s.setDe v
  | .hl => s.setHl v
  | .sp => s.setSp v

/-- Read a pair of table `rp2` (R120). -/
def State.stackPair (s : State) : StackPair → Word
  | .bc => s.bc
  | .de => s.de
  | .hl => s.hl
  | .af => s.af

/-- Write a pair of table `rp2`. -/
def State.setStackPair (s : State) (p : StackPair) (v : Word) : State :=
  match p with
  | .bc => s.setBc v
  | .de => s.setDe v
  | .hl => s.setHl v
  | .af => s.setAf v

/-- Read an index register (R33). -/
def State.xy (s : State) : IndexReg → Word
  | .ix => s.cpu.ix
  | .iy => s.cpu.iy

/-- Write an index register. -/
def State.setXy (s : State) (x : IndexReg) (v : Word) : State :=
  match x with
  | .ix => { s with cpu := { s.cpu with ix := v } }
  | .iy => { s with cpu := { s.cpu with iy := v } }

/-- Read XYH or XYL (R33). -/
def State.xyHalf (s : State) (x : IndexReg) : Half → Byte
  | .hi => highByte (s.xy x)
  | .lo => lowByte (s.xy x)

/-- Write XYH or XYL; the other half is unchanged (R33). -/
def State.setXyHalf (s : State) (x : IndexReg) (h : Half) (v : Byte) : State :=
  match h with
  | .hi => s.setXy x (word v (lowByte (s.xy x)))
  | .lo => s.setXy x (word (highByte (s.xy x)) v)

/-- Read a register of table `r` with XYH and XYL in place of H and L (R127 (c)). -/
def State.regX (s : State) (x : IndexReg) : Reg8X → Byte
  | .b => s.cpu.b
  | .c => s.cpu.c
  | .d => s.cpu.d
  | .e => s.cpu.e
  | .xyh => s.xyHalf x .hi
  | .xyl => s.xyHalf x .lo
  | .a => s.cpu.a

/-- Write a register of table `r` with XYH and XYL in place of H and L. -/
def State.setRegX (s : State) (x : IndexReg) (r : Reg8X) (v : Byte) : State :=
  match r with
  | .b => s.setReg .b v
  | .c => s.setReg .c v
  | .d => s.setReg .d v
  | .e => s.setReg .e v
  | .xyh => s.setXyHalf x .hi v
  | .xyl => s.setXyHalf x .lo v
  | .a => s.setReg .a v

/-- Read a pair of table `rp` under an index prefix, where 2 is XY (R313). -/
def State.indexPair (s : State) (x : IndexReg) : IndexPair → Word
  | .bc => s.bc
  | .de => s.de
  | .xy => s.xy x
  | .sp => s.cpu.sp

/-! ### Memory (R81, R82, R84) -/

/-- `MemRead(a)` (R81). -/
def State.memRead (s : State) (a : Word) : Byte := s.mem.read a.toNat

/-- The address is in the ROM range, 0x0000-0x3FFF (R86). -/
def isRom (a : Word) : Bool := decide (a.toNat < ramStart)

/-- `MemWrite(a, v)`: dropped in the ROM range (R82). -/
def State.memWrite (s : State) (a : Word) (v : Byte) : State :=
  if isRom a then s else { s with mem := s.mem.store a.toNat v }

/-- `MemRead16(a)`, little-endian, the second address mod 2^16 (R83, R84). -/
def State.memRead16 (s : State) (a : Word) : Word := word (s.memRead (a + 1)) (s.memRead a)

/-- `MemWrite16(a, v)`: the low byte first, each byte checked against ROM on its own (R84). -/
def State.memWrite16 (s : State) (a v : Word) : State :=
  (s.memWrite a (lowByte v)).memWrite (a + 1) (highByte v)

/-! ### The tact counter and CONTENTION (R47, R100) -/

/-- `CurrentFrameTact` (48_ula.md R442). -/
def State.frameTact (s : State) : Nat := s.cpu.tacts - s.ula.frameStart

/-- `CONTENTION`: the extra tacts of an access at a frame tact (R100); 0 where the table has no entry. -/
def waitOf (table : List Wait) (frameTact : Nat) (x : Access) : Nat :=
  match table with
  | [] => 0
  | w :: rest => if w.frameTact = frameTact ∧ w.access = x then w.extra else waitOf rest frameTact x

/-- The extra tacts of several accesses, all taken at one frame tact (notes/assumptions/4.md). -/
def State.waits (s : State) : List Access → Nat
  | [] => 0
  | x :: rest => waitOf s.env.contention s.frameTact x + s.waits rest

/-- Add the tacts of a rule and the waits of the accesses it makes to the tact counter (R47, R92, R612). -/
def State.charge (s : State) (n : Nat) (accesses : List Access) : State :=
  { s with cpu := { s.cpu with tacts := s.cpu.tacts + n + s.waits accesses } }

/-- The access of a `MemRead`. -/
def readAt (a : Word) : Access := ⟨.memRead, a⟩
/-- The access of a `MemWrite`. -/
def writeAt (a : Word) : Access := ⟨.memWrite, a⟩
/-- The access of a `PortRead`. -/
def portReadAt (p : Word) : Access := ⟨.portRead, p⟩
/-- The access of a `PortWrite`. -/
def portWriteAt (p : Word) : Access := ⟨.portWrite, p⟩

/-! ### The refresh register (R39) -/

/-- R after one M1 cycle: bits 6-0 incremented mod 128, bit 7 kept. -/
def nextR (r : Byte) : Byte := r.extractLsb' 7 1 ++ (r.extractLsb' 0 7 + 1)

/-- One increment of R. -/
def State.bumpR (s : State) : State := s.setR (nextR s.cpu.r)

/-! ### The stack (R222) -/

/-- `Push(v)`: the high byte at the higher address; SP moves even where the write is dropped. -/
def State.push (s : State) (v : Word) : State :=
  ((s.memWrite (s.cpu.sp - 1) (highByte v)).memWrite (s.cpu.sp - 2) (lowByte v)).setSp (s.cpu.sp - 2)

/-- The value `Pop()` returns. -/
def State.popValue (s : State) : Word := s.memRead16 s.cpu.sp

/-- SP after `Pop()`. -/
def State.popSp (s : State) : State := s.setSp (s.cpu.sp + 2)

/-- The accesses of a `Push`. -/
def State.pushAccesses (s : State) : List Access := [writeAt (s.cpu.sp - 1), writeAt (s.cpu.sp - 2)]

/-- The accesses of a `Pop`. -/
def State.popAccesses (s : State) : List Access := [readAt s.cpu.sp, readAt (s.cpu.sp + 1)]

/-! ### Taking an interrupt (60_exceptions.md R555 to R560) -/

/-- What every acceptance does first: the halt is broken, R counts the acknowledge cycle, IFF1 is cleared, and IFF2 with
it where `maskable` (R555, R560). -/
def State.acknowledge (s : State) (maskable : Bool) : State :=
  let s1 := (s.setHalted false).bumpR
  s1.setIff false (if maskable then false else s1.cpu.iff2)

/-- Enter a handler: push PC, go to the address `target` reads from the state after the push, MEMPTR with it, and add the
acceptance's tacts. `vectorReads` are the accesses of reading the address (R557, R558, R560). -/
def State.enterHandler (s : State) (target : State → Word) (tacts : Nat) (vectorReads : List Access) : State :=
  let s1 := s.push s.cpu.pc
  ((s1.setPc (target s1)).setMemptr (target s1)).charge tacts (s.pushAccesses ++ vectorReads)

/-- NMI acceptance (R560): IFF2 keeps its value. -/
def acceptNmi (s : State) : State :=
  ((s.setNmiPending false).acknowledge false).enterHandler (fun _ => nmiVector) 11 []

/-- The address of the IM 2 vector: `{I, IM2_BUS_BYTE}` (R558). -/
def State.im2VectorAddress (s : State) : Word := word s.cpu.i im2BusByte

/-- Maskable interrupt acceptance (R555): IM 0 is the stand-in of R556, IM 1 the call of R557, IM 2 the vectored call of
R558. -/
def acceptInt (s : State) : State :=
  let s1 := s.acknowledge true
  match s.cpu.im with
  | .im0 => s1.charge im0AckTacts []
  | .im1 => s1.enterHandler (fun _ => im1Vector) 13 []
  | .im2 =>
    s1.enterHandler (fun t => t.memRead16 t.im2VectorAddress) 19
      [readAt s1.im2VectorAddress, readAt (s1.im2VectorAddress + 1)]

/-- A halted cycle (R561). -/
def haltedCycle (s : State) : State := s.bumpR.charge 4 []

/-- `PC <- Pop(); MEMPTR <- PC` (R389). -/
def State.returnToCaller (s : State) : State :=
  ((s.popSp).setPc s.popValue).setMemptr s.popValue

/-- Return from an interrupt, RETI and RETN (R391, R392, R563): IFF1 takes IFF2, PC is popped, nothing else is restored. -/
def State.returnFromInterrupt (s : State) : State :=
  (s.setIff s.cpu.iff2 s.cpu.iff2).returnToCaller

end Sys2Proof.Machine
end

