-- ==== Sys2Proof/Machine/Flags.lean ====
section
/-! DEFINITION. The flag register and every result-and-flags computation of the instruction set: 10_state.md R35, R36, the
accumulator operations (41_arith8.md), 16-bit arithmetic (43_arith16.md), rotates (44_rotate_shift.md), bit tests
(45_bit.md), DAA and its neighbours (42_general_control.md), block operations (40_load_exchange.md, 47_io.md). Sums and
differences are computed exactly on naturals and narrowed at the end; carry, borrow and overflow are read off them. -/

namespace Sys2Proof.Machine

/-- A flag byte from its eight bits, in the order S Z Y H X PV N C (R35). -/
def mkF (s z y h x pv n c : Bool) : Byte :=
  BitVec.ofBool s ++ BitVec.ofBool z ++ BitVec.ofBool y ++ BitVec.ofBool h ++ BitVec.ofBool x ++ BitVec.ofBool pv ++
    BitVec.ofBool n ++ BitVec.ofBool c

/-- S, bit 7 (R35). -/
def flagS (f : Byte) : Bool := f.getLsbD 7
/-- Z, bit 6. -/
def flagZ (f : Byte) : Bool := f.getLsbD 6
/-- Y, bit 5. -/
def flagY (f : Byte) : Bool := f.getLsbD 5
/-- H, bit 4. -/
def flagH (f : Byte) : Bool := f.getLsbD 4
/-- X, bit 3. -/
def flagX (f : Byte) : Bool := f.getLsbD 3
/-- P/V, bit 2. -/
def flagPV (f : Byte) : Bool := f.getLsbD 2
/-- N, bit 1. -/
def flagN (f : Byte) : Bool := f.getLsbD 1
/-- C, bit 0. -/
def flagC (f : Byte) : Bool := f.getLsbD 0

/-- `Parity(v)`: an even number of 1 bits (00_scope.md R10). -/
def parity (v : Byte) : Bool :=
  !(v.getLsbD 0 ^^ v.getLsbD 1 ^^ v.getLsbD 2 ^^ v.getLsbD 3 ^^ v.getLsbD 4 ^^ v.getLsbD 5 ^^ v.getLsbD 6 ^^ v.getLsbD 7)

/-- Condition evaluation (30_encoding.md R119). -/
def condHolds (f : Byte) : Cond → Bool
  | .nz => !flagZ f
  | .z => flagZ f
  | .nc => !flagC f
  | .c => flagC f
  | .po => !flagPV f
  | .pe => flagPV f
  | .p => !flagS f
  | .m => flagS f

/-- Condition evaluation of `JR cc` (R119). -/
def jrCondHolds (f : Byte) : JrCond → Bool
  | .nz => !flagZ f
  | .z => flagZ f
  | .nc => !flagC f
  | .c => flagC f

/-! ### 8-bit arithmetic and logic (R261 to R268) -/

/-- The result of `A + s + c` and its flags (R261, R262). -/
def add8 (a s : Byte) (c : Bool) : Byte × Byte :=
  let t := a.toNat + s.toNat + c.toNat
  let res := BitVec.ofNat 8 t
  (res, mkF (res.getLsbD 7) (res == 0) (res.getLsbD 5) ((a ^^^ s ^^^ res).getLsbD 4) (res.getLsbD 3)
    (a.getLsbD 7 == s.getLsbD 7 && res.getLsbD 7 != a.getLsbD 7) false (decide (0xFF < t)))

/-- The result of `A - s - c` and its flags (R263, R264). -/
def sub8 (a s : Byte) (c : Bool) : Byte × Byte :=
  let res := a - s - BitVec.ofNat 8 c.toNat
  (res, mkF (res.getLsbD 7) (res == 0) (res.getLsbD 5) ((a ^^^ s ^^^ res).getLsbD 4) (res.getLsbD 3)
    (a.getLsbD 7 != s.getLsbD 7 && res.getLsbD 7 != a.getLsbD 7) true (decide (a.toNat < s.toNat + c.toNat)))

/-- The flags of a logical result (R265 to R267). -/
def logicF (res : Byte) (h : Bool) : Byte :=
  mkF (res.getLsbD 7) (res == 0) (res.getLsbD 5) h (res.getLsbD 3) (parity res) false false

/-- The flags of `CP s`: those of `SUB s`, Y and X from the operand (R268). -/
def cpF (a s : Byte) : Byte :=
  let f := (sub8 a s false).2
  mkF (flagS f) (flagZ f) (s.getLsbD 5) (flagH f) (s.getLsbD 3) (flagPV f) (flagN f) (flagC f)

/-- The eight accumulator operations (R117). -/
inductive AluOp where
  | add | adc | sub | sbc | and | xor | or | cp
  deriving DecidableEq, Repr

/-- The new A and F of an accumulator operation on the operand `v` (R261 to R268). -/
def aluResult (op : AluOp) (a f v : Byte) : Byte × Byte :=
  match op with
  | .add => add8 a v false
  | .adc => add8 a v (flagC f)
  | .sub => sub8 a v false
  | .sbc => sub8 a v (flagC f)
  | .and => (a &&& v, logicF (a &&& v) true)
  | .xor => (a ^^^ v, logicF (a ^^^ v) false)
  | .or => (a ||| v, logicF (a ||| v) false)
  | .cp => (a, cpF a v)

/-- The result of an 8-bit increment and its flags, C preserved (R270). -/
def inc8 (v f : Byte) : Byte × Byte :=
  let res := v + 1
  (res, mkF (res.getLsbD 7) (res == 0) (res.getLsbD 5) (v.extractLsb' 0 4 == 0xF#4) (res.getLsbD 3) (v == 0x7F) false
    (flagC f))

/-- The result of an 8-bit decrement and its flags, C preserved (R274). -/
def dec8 (v f : Byte) : Byte × Byte :=
  let res := v - 1
  (res, mkF (res.getLsbD 7) (res == 0) (res.getLsbD 5) (v.extractLsb' 0 4 == 0#4) (res.getLsbD 3) (v == 0x80) true
    (flagC f))

/-! ### General-purpose operations (R290 to R294) -/

/-- `DAA` (R290): the new A and F. -/
def daaResult (a f : Byte) : Byte × Byte :=
  let low : Byte := if flagH f || decide (9 < (a &&& 0x0F).toNat) then 0x06 else 0x00
  let c := flagC f || decide (0x99 < a.toNat)
  let diff : Byte := low ||| (if c then 0x60 else 0x00)
  let res := if flagN f then a - diff else a + diff
  let h := if flagN f then flagH f && decide ((a &&& 0x0F).toNat < 6) else decide (9 < (a &&& 0x0F).toNat)
  (res, mkF (res.getLsbD 7) (res == 0) (res.getLsbD 5) h (res.getLsbD 3) (parity res) (flagN f) c)

/-- `CPL`'s F, `a` its result (R291). -/
def cplF (a f : Byte) : Byte :=
  mkF (flagS f) (flagZ f) (a.getLsbD 5) true (a.getLsbD 3) (flagPV f) true (flagC f)

/-- `CCF`'s F (R293): C inverted, H the old C, Y and X from A. -/
def ccfF (a f : Byte) : Byte :=
  mkF (flagS f) (flagZ f) (a.getLsbD 5) (flagC f) (a.getLsbD 3) (flagPV f) false (!flagC f)

/-- `SCF`'s F (R294): C set, H reset, Y and X from A. -/
def scfF (a f : Byte) : Byte :=
  mkF (flagS f) (flagZ f) (a.getLsbD 5) false (a.getLsbD 3) (flagPV f) false true

/-- `LD A,I` and `LD A,R`: F from the value loaded and IFF2 (R214, R215). -/
def loadIrF (v f : Byte) (iff2 : Bool) : Byte :=
  mkF (v.getLsbD 7) (v == 0) (v.getLsbD 5) false (v.getLsbD 3) iff2 false (flagC f)

/-! ### 16-bit arithmetic (R310 to R313) -/

/-- `x + v` and the flags of `ADD HL,rp`: S, Z, PV preserved (R310). -/
def add16 (x v : Word) (f : Byte) : Word × Byte :=
  let t := x.toNat + v.toNat
  let res := BitVec.ofNat 16 t
  (res, mkF (flagS f) (flagZ f) (res.getLsbD 13) ((x ^^^ v ^^^ res).getLsbD 12) (res.getLsbD 11) (flagPV f) false
    (decide (0xFFFF < t)))

/-- `x + v + C` and the flags of `ADC HL,rp` (R311). -/
def adc16 (x v : Word) (f : Byte) : Word × Byte :=
  let t := x.toNat + v.toNat + (flagC f).toNat
  let res := BitVec.ofNat 16 t
  (res, mkF (res.getLsbD 15) (res == 0) (res.getLsbD 13) ((x ^^^ v ^^^ res).getLsbD 12) (res.getLsbD 11)
    (x.getLsbD 15 == v.getLsbD 15 && res.getLsbD 15 != x.getLsbD 15) false (decide (0xFFFF < t)))

/-- `x - v - C` and the flags of `SBC HL,rp` (R312). -/
def sbc16 (x v : Word) (f : Byte) : Word × Byte :=
  let res := x - v - BitVec.ofNat 16 (flagC f).toNat
  (res, mkF (res.getLsbD 15) (res == 0) (res.getLsbD 13) ((x ^^^ v ^^^ res).getLsbD 12) (res.getLsbD 11)
    (x.getLsbD 15 != v.getLsbD 15 && res.getLsbD 15 != x.getLsbD 15) true
    (decide (x.toNat < v.toNat + (flagC f).toNat)))

/-! ### Rotates and shifts (R330 to R345) -/

/-- The eight CB rotates and shifts (R117). -/
inductive RotOp where
  | rlc | rrc | rl | rr | sla | sra | sll | srl
  deriving DecidableEq, Repr

/-- The result and the carry-out of a rotate or shift of `v` with carry in `c` (R335 to R342). -/
def rotResult (op : RotOp) (v : Byte) (c : Bool) : Byte × Bool :=
  let out7 := v.getLsbD 7
  let out0 := v.getLsbD 0
  match op with
  | .rlc => (v.extractLsb' 0 7 ++ BitVec.ofBool out7, out7)
  | .rrc => (BitVec.ofBool out0 ++ v.extractLsb' 1 7, out0)
  | .rl => (v.extractLsb' 0 7 ++ BitVec.ofBool c, out7)
  | .rr => (BitVec.ofBool c ++ v.extractLsb' 1 7, out0)
  | .sla => (v.extractLsb' 0 7 ++ 0#1, out7)
  | .sra => (BitVec.ofBool out7 ++ v.extractLsb' 1 7, out0)
  | .sll => (v.extractLsb' 0 7 ++ 1#1, out7)
  | .srl => (0#1 ++ v.extractLsb' 1 7, out0)

/-- The flags of a CB rotate or shift (R334). -/
def rotF (res : Byte) (c : Bool) : Byte :=
  mkF (res.getLsbD 7) (res == 0) (res.getLsbD 5) false (res.getLsbD 3) (parity res) false c

/-- The flags of RLCA, RLA, RRCA, RRA: S, Z, PV preserved (R330). -/
def rotAF (res f : Byte) (c : Bool) : Byte :=
  mkF (flagS f) (flagZ f) (res.getLsbD 5) false (res.getLsbD 3) (flagPV f) false c

/-- The flags of RLD and RRD from the new A, C preserved (R344). -/
def digitF (a f : Byte) : Byte :=
  mkF (a.getLsbD 7) (a == 0) (a.getLsbD 5) false (a.getLsbD 3) (parity a) false (flagC f)

/-! ### Bit operations (R360 to R370) -/

/-- The flags of `BIT b` on the byte `v`; Y and X are given by the form (R360 to R362). -/
def bitF (v : Byte) (b : BitVec 3) (y x : Bool) (f : Byte) : Byte :=
  let zf := !v.getLsbD b.toNat
  mkF (b == 7 && !zf) zf y true x zf false (flagC f)

/-- `v | (1 << b)` (R363). -/
def setBit (v : Byte) (b : BitVec 3) : Byte := v ||| (1#8 <<< b.toNat)

/-- `v & ~(1 << b)` (R367). -/
def resBit (v : Byte) (b : BitVec 3) : Byte := v &&& ~~~(1#8 <<< b.toNat)

/-! ### Block operations -/

/-- The flags of LDI and LDD: `k` is the byte moved plus A, `bc` the decremented count (R240). -/
def ldBlockF (k : Byte) (bc : Word) (f : Byte) : Byte :=
  mkF (flagS f) (flagZ f) (k.getLsbD 1) false (k.getLsbD 3) (bc != 0) false (flagC f)

/-- The flags of CPI and CPD for the byte `v`, `bc` the decremented count (R244). -/
def cpBlockF (a v : Byte) (bc : Word) (f : Byte) : Byte :=
  let res := a - v
  let h := (a ^^^ v ^^^ res).getLsbD 4
  let k := res - BitVec.ofNat 8 h.toNat
  mkF (res.getLsbD 7) (res == 0) (k.getLsbD 1) h (k.getLsbD 3) (bc != 0) true (flagC f)

/-- The flags of the block I/O instructions: `v` the byte moved, `b` the decremented B, `k` the rule's sum (R413, R420). -/
def ioBlockF (v b : Byte) (k : Nat) : Byte :=
  mkF (b.getLsbD 7) (b == 0) (b.getLsbD 5) (decide (0xFF < k)) (b.getLsbD 3)
    (parity (BitVec.ofNat 8 (k % 8) ^^^ b)) (v.getLsbD 7) (decide (0xFF < k))

/-- The flags of `IN r,(C)` and `IN (C)` from the byte read, C preserved (R411). -/
def inF (v f : Byte) : Byte :=
  mkF (v.getLsbD 7) (v == 0) (v.getLsbD 5) false (v.getLsbD 3) (parity v) false (flagC f)

end Sys2Proof.Machine
end

