-- ==== Sys2Proof/Machine/Operands.lean ====
section
/-! DEFINITION. The operand forms, each written once over the operations of Ops and Flags: where an operand comes from,
where a result goes, the tacts of the final step (30_encoding.md R115: the rule's total less 4 per prefix byte), MEMPTR.
The meanings of the families are instances of these. -/

namespace Sys2Proof.Machine

/-- `ea = (XY + sext_8(d)) & 0xFFFF` (30_encoding.md R127). -/
def State.indexAddress (s : State) (x : IndexReg) (d : Byte) : Word := s.xy x + d.signExtend 16

/-- A relative target: `(PC + sext_8(e)) & 0xFFFF`, PC after the displacement (46_jump_call_return.md R382). -/
def State.relativeTarget (s : State) (e : Byte) : Word := s.cpu.pc + e.signExtend 16

/-! ### Accumulator operations (41_arith8.md R260) -/

/-- An accumulator operation on a given operand: A and F. -/
def State.alu (s : State) (op : AluOp) (v : Byte) : State :=
  (s.setA (aluResult op s.cpu.a s.cpu.f v).1).setF (aluResult op s.cpu.a s.cpu.f v).2

/-- Register form. -/
def aluOnReg (op : AluOp) (r : Reg8) (s : State) : State := (s.alu op (s.reg r)).charge 4 []

/-- Immediate form. -/
def aluOnImmediate (op : AluOp) (n : Byte) (s : State) : State := (s.alu op n).charge 7 []

/-- (HL) form. -/
def aluOnMemHl (op : AluOp) (s : State) : State := (s.alu op (s.memRead s.hl)).charge 7 [readAt s.hl]

/-- (XY+d) form. -/
def aluOnMemXy (op : AluOp) (x : IndexReg) (d : Byte) (s : State) : State :=
  let ea := s.indexAddress x d
  ((s.setMemptr ea).alu op (s.memRead ea)).charge 15 [readAt ea]

/-- XYH/XYL form. -/
def aluOnXyHalf (op : AluOp) (x : IndexReg) (h : Half) (s : State) : State := (s.alu op (s.xyHalf x h)).charge 4 []

/-! ### Read, change and write back one byte with its flags (R270 to R277, R334) -/

/-- A result byte and the new F from the byte read and the old F. -/
abbrev ByteOp := Byte → Byte → Byte × Byte

/-- Register form. -/
def modifyReg (op : ByteOp) (r : Reg8) (tacts : Nat) (s : State) : State :=
  ((s.setReg r (op (s.reg r) s.cpu.f).1).setF (op (s.reg r) s.cpu.f).2).charge tacts []

/-- XYH/XYL form. -/
def modifyXyHalf (op : ByteOp) (x : IndexReg) (h : Half) (tacts : Nat) (s : State) : State :=
  ((s.setXyHalf x h (op (s.xyHalf x h) s.cpu.f).1).setF (op (s.xyHalf x h) s.cpu.f).2).charge tacts []

/-- The byte at `ea`: a write into ROM is dropped, the flags still come from the result (R271, R334). -/
def modifyMem (op : ByteOp) (ea : Word) (tacts : Nat) (s : State) : State :=
  ((s.memWrite ea (op (s.memRead ea) s.cpu.f).1).setF (op (s.memRead ea) s.cpu.f).2).charge tacts [readAt ea, writeAt ea]

/-- (XY+d) form: MEMPTR takes the address (R127). -/
def modifyMemXy (op : ByteOp) (x : IndexReg) (d : Byte) (tacts : Nat) (s : State) : State :=
  modifyMem op (s.indexAddress x d) tacts (s.setMemptr (s.indexAddress x d))

/-- (XY+d) form with a copy of the result to a register, written even where the memory write is dropped (R343). -/
def modifyMemXyCopy (op : ByteOp) (x : IndexReg) (d : Byte) (r : Reg8) (tacts : Nat) (s : State) : State :=
  (modifyMemXy op x d tacts s).setReg r (op (s.memRead (s.indexAddress x d)) s.cpu.f).1

/-- A CB rotate or shift as a `ByteOp` (R334). -/
def rotOp (op : RotOp) : ByteOp := fun v f =>
  ((rotResult op v (flagC f)).1, rotF (rotResult op v (flagC f)).1 (rotResult op v (flagC f)).2)

/-- `SET b` as a `ByteOp`: no flag changes (R363). -/
def setOp (b : BitVec 3) : ByteOp := fun v f => (setBit v b, f)

/-- `RES b` as a `ByteOp`: no flag changes (R367). -/
def resOp (b : BitVec 3) : ByteOp := fun v f => (resBit v b, f)

/-! ### Accumulator rotates (R330 to R333) -/

/-- RLCA, RLA, RRCA, RRA. -/
def rotateA (op : RotOp) (s : State) : State :=
  let res := rotResult op s.cpu.a (flagC s.cpu.f)
  ((s.setA res.1).setF (rotAF res.1 s.cpu.f res.2)).charge 4 []

/-! ### Loads -/

/-- Load A from an address held in a pair: MEMPTR is the address + 1 (R208, R209). -/
def loadAFrom (a : Word) (tacts : Nat) (s : State) : State :=
  ((s.setA (s.memRead a)).setMemptr (a + 1)).charge tacts [readAt a]

/-- Store A at an address: MEMPTR is `{A, (address + 1) & 0xFF}` (R211, R212, R213). -/
def storeATo (a : Word) (tacts : Nat) (s : State) : State :=
  ((s.memWrite a s.cpu.a).setMemptr (word s.cpu.a (lowByte (a + 1)))).charge tacts [writeAt a]

/-- Store a word at `nn`: MEMPTR is `nn + 1` (R226 to R228). -/
def storeWord (nn v : Word) (tacts : Nat) (s : State) : State :=
  ((s.memWrite16 nn v).setMemptr (nn + 1)).charge tacts [writeAt nn, writeAt (nn + 1)]

/-- The bookkeeping of loading a word from `nn`: MEMPTR is `nn + 1` (R223 to R225). -/
def loadedWord (nn : Word) (tacts : Nat) (s : State) : State :=
  (s.setMemptr (nn + 1)).charge tacts [readAt nn, readAt (nn + 1)]

/-- `EX (SP),v`: the word at SP is replaced by `v`; MEMPTR takes the word read (R238, R239). -/
def exchangeStack (v : Word) (s : State) : State :=
  ((s.memWrite16 s.cpu.sp v).setMemptr (s.memRead16 s.cpu.sp)).charge 19
    [readAt s.cpu.sp, readAt (s.cpu.sp + 1), writeAt s.cpu.sp, writeAt (s.cpu.sp + 1)]

/-! ### Block transfer and search (R240 to R247) -/

/-- The direction of a block instruction: I or D. -/
inductive Dir where
  | inc | dec
  deriving DecidableEq, Repr

/-- A pointer moved by one in the direction of the instruction, mod 2^16. -/
def Dir.move (dir : Dir) (w : Word) : Word :=
  match dir with
  | .inc => w + 1
  | .dec => w - 1

/-- LDI or LDD without its tacts (R240, R242). -/
def ldBlock (dir : Dir) (s : State) : State :=
  let v := s.memRead s.hl
  ((((s.memWrite s.de v).setHl (dir.move s.hl)).setDe (dir.move s.de)).setBc (s.bc - 1)).setF
    (ldBlockF (v + s.cpu.a) (s.bc - 1) s.cpu.f)

/-- CPI or CPD without its tacts (R244, R246). -/
def cpBlock (dir : Dir) (s : State) : State :=
  let v := s.memRead s.hl
  (((s.setHl (dir.move s.hl)).setBc (s.bc - 1)).setMemptr (dir.move s.cpu.memptr)).setF
    (cpBlockF s.cpu.a v (s.bc - 1) s.cpu.f)

/-- PC set back to the instruction's first byte (R241, R414). -/
def State.repeatPc (s : State) : State := s.setPc (s.cpu.pc - 2)

/-- The repetition of LDIR, LDDR, CPIR, CPDR: PC back by 2 and MEMPTR the new PC + 1 (R241, R245). -/
def State.repeatBlock (s : State) : State := s.repeatPc.setMemptr (s.cpu.pc - 1)

/-! ### Jumps and calls (46_jump_call_return.md) -/

/-- Jump to a target that MEMPTR takes too. -/
def State.jumpTo (s : State) (target : Word) : State := (s.setMemptr target).setPc target

/-- Call a target: MEMPTR takes it, PC is pushed (R387, R393). -/
def State.call (s : State) (target : Word) : State := ((s.setMemptr target).push s.cpu.pc).setPc target

end Sys2Proof.Machine
end

