-- ==== Sys2Proof/Machine/Bit.lean ====
section
/-! DEFINITION. Meanings of the bit test, set and reset instructions (45_bit.md R360 to R370). -/

namespace Sys2Proof.Machine

/-! ### BIT -/

/-- BIT b,r' (R360): Y and X from the register tested. -/
def execBitR (b : BitVec 3) (r : Reg8) (s : State) : Result :=
  let v := s.reg r
  .next ((s.setF (bitF v b (v.getLsbD 5) (v.getLsbD 3) s.cpu.f)).charge 4 [])

/-- BIT b,(HL) (R361): Y and X from MEMPTR. -/
def execBitMemHl (b : BitVec 3) (s : State) : Result :=
  .next ((s.setF (bitF (s.memRead s.hl) b (s.cpu.memptr.getLsbD 13) (s.cpu.memptr.getLsbD 11) s.cpu.f)).charge 8
    [readAt s.hl])

/-- BIT b on the byte at `ea`: Y and X from the address, which MEMPTR takes (R362). -/
def bitIndexed (ea : Word) (b : BitVec 3) (s : State) : State :=
  ((s.setMemptr ea).setF (bitF (s.memRead ea) b (ea.getLsbD 13) (ea.getLsbD 11) s.cpu.f)).charge 12 [readAt ea]

/-- BIT b,(XY+d) (R362). -/
def execBitMemXy (xy : IndexReg) (d : Byte) (b : BitVec 3) (s : State) : Result :=
  .next (bitIndexed (s.indexAddress xy d) b s)

/-- The duplicates of BIT b,(XY+d) whose register field is not 6 (R362): no register is written. -/
def execBitMemXyDup (xy : IndexReg) (d : Byte) (b : BitVec 3) (_r : Reg8) (s : State) : Result :=
  .next (bitIndexed (s.indexAddress xy d) b s)

/-! ### SET -/

/-- SET b,r' (R363). -/
def execSetR (b : BitVec 3) (r : Reg8) (s : State) : Result := .next (modifyReg (setOp b) r 4 s)

/-- SET b,(HL) (R364). -/
def execSetMemHl (b : BitVec 3) (s : State) : Result := .next (modifyMem (setOp b) s.hl 11 s)

/-- SET b,(XY+d) (R365). -/
def execSetMemXy (xy : IndexReg) (d : Byte) (b : BitVec 3) (s : State) : Result :=
  .next (modifyMemXy (setOp b) xy d 15 s)

/-- SET b,(XY+d),r' (R366). -/
def execSetMemXyR (xy : IndexReg) (d : Byte) (b : BitVec 3) (r : Reg8) (s : State) : Result :=
  .next (modifyMemXyCopy (setOp b) xy d r 15 s)

/-! ### RES -/

/-- RES b,r' (R367). -/
def execResR (b : BitVec 3) (r : Reg8) (s : State) : Result := .next (modifyReg (resOp b) r 4 s)

/-- RES b,(HL) (R368). -/
def execResMemHl (b : BitVec 3) (s : State) : Result := .next (modifyMem (resOp b) s.hl 11 s)

/-- RES b,(XY+d) (R369). -/
def execResMemXy (xy : IndexReg) (d : Byte) (b : BitVec 3) (s : State) : Result :=
  .next (modifyMemXy (resOp b) xy d 15 s)

/-- RES b,(XY+d),r' (R370). -/
def execResMemXyR (xy : IndexReg) (d : Byte) (b : BitVec 3) (r : Reg8) (s : State) : Result :=
  .next (modifyMemXyCopy (resOp b) xy d r 15 s)

end Sys2Proof.Machine
end

