-- ==== Sys2Proof/Machine/Alu8.lean ====
section
/-! DEFINITION. Meanings of the 8-bit arithmetic and logical instructions (41_arith8.md R260 to R277). -/

namespace Sys2Proof.Machine

/-! ### ADD (R261) -/

/-- ADD A,r' (R261, R260). -/
def execAddAR (r : Reg8) (s : State) : Result := .next (aluOnReg .add r s)

/-- ADD A,(HL) (R261, R260). -/
def execAddAMemHl (s : State) : Result := .next (aluOnMemHl .add s)

/-- ADD A,n (R261, R260). -/
def execAddAN (n : Byte) (s : State) : Result := .next (aluOnImmediate .add n s)

/-- ADD A,XYH/XYL (R261, R260). -/
def execAddAXyHalf (xy : IndexReg) (h : Half) (s : State) : Result := .next (aluOnXyHalf .add xy h s)

/-- ADD A,(XY+d) (R261, R260). -/
def execAddAMemXy (xy : IndexReg) (d : Byte) (s : State) : Result := .next (aluOnMemXy .add xy d s)

/-! ### ADC (R262) -/

/-- ADC A,r' (R262, R260). -/
def execAdcAR (r : Reg8) (s : State) : Result := .next (aluOnReg .adc r s)

/-- ADC A,(HL) (R262, R260). -/
def execAdcAMemHl (s : State) : Result := .next (aluOnMemHl .adc s)

/-- ADC A,n (R262, R260). -/
def execAdcAN (n : Byte) (s : State) : Result := .next (aluOnImmediate .adc n s)

/-- ADC A,XYH/XYL (R262, R260). -/
def execAdcAXyHalf (xy : IndexReg) (h : Half) (s : State) : Result := .next (aluOnXyHalf .adc xy h s)

/-- ADC A,(XY+d) (R262, R260). -/
def execAdcAMemXy (xy : IndexReg) (d : Byte) (s : State) : Result := .next (aluOnMemXy .adc xy d s)

/-! ### SUB (R263) -/

/-- SUB r' (R263, R260). -/
def execSubR (r : Reg8) (s : State) : Result := .next (aluOnReg .sub r s)

/-- SUB (HL) (R263, R260). -/
def execSubMemHl (s : State) : Result := .next (aluOnMemHl .sub s)

/-- SUB n (R263, R260). -/
def execSubN (n : Byte) (s : State) : Result := .next (aluOnImmediate .sub n s)

/-- SUB XYH/XYL (R263, R260). -/
def execSubXyHalf (xy : IndexReg) (h : Half) (s : State) : Result := .next (aluOnXyHalf .sub xy h s)

/-- SUB (XY+d) (R263, R260). -/
def execSubMemXy (xy : IndexReg) (d : Byte) (s : State) : Result := .next (aluOnMemXy .sub xy d s)

/-! ### SBC (R264) -/

/-- SBC A,r' (R264, R260). -/
def execSbcAR (r : Reg8) (s : State) : Result := .next (aluOnReg .sbc r s)

/-- SBC A,(HL) (R264, R260). -/
def execSbcAMemHl (s : State) : Result := .next (aluOnMemHl .sbc s)

/-- SBC A,n (R264, R260). -/
def execSbcAN (n : Byte) (s : State) : Result := .next (aluOnImmediate .sbc n s)

/-- SBC A,XYH/XYL (R264, R260). -/
def execSbcAXyHalf (xy : IndexReg) (h : Half) (s : State) : Result := .next (aluOnXyHalf .sbc xy h s)

/-- SBC A,(XY+d) (R264, R260). -/
def execSbcAMemXy (xy : IndexReg) (d : Byte) (s : State) : Result := .next (aluOnMemXy .sbc xy d s)

/-! ### AND (R265) -/

/-- AND r' (R265, R260). -/
def execAndR (r : Reg8) (s : State) : Result := .next (aluOnReg .and r s)

/-- AND (HL) (R265, R260). -/
def execAndMemHl (s : State) : Result := .next (aluOnMemHl .and s)

/-- AND n (R265, R260). -/
def execAndN (n : Byte) (s : State) : Result := .next (aluOnImmediate .and n s)

/-- AND XYH/XYL (R265, R260). -/
def execAndXyHalf (xy : IndexReg) (h : Half) (s : State) : Result := .next (aluOnXyHalf .and xy h s)

/-- AND (XY+d) (R265, R260). -/
def execAndMemXy (xy : IndexReg) (d : Byte) (s : State) : Result := .next (aluOnMemXy .and xy d s)

/-! ### XOR (R266) -/

/-- XOR r' (R266, R260). -/
def execXorR (r : Reg8) (s : State) : Result := .next (aluOnReg .xor r s)

/-- XOR (HL) (R266, R260). -/
def execXorMemHl (s : State) : Result := .next (aluOnMemHl .xor s)

/-- XOR n (R266, R260). -/
def execXorN (n : Byte) (s : State) : Result := .next (aluOnImmediate .xor n s)

/-- XOR XYH/XYL (R266, R260). -/
def execXorXyHalf (xy : IndexReg) (h : Half) (s : State) : Result := .next (aluOnXyHalf .xor xy h s)

/-- XOR (XY+d) (R266, R260). -/
def execXorMemXy (xy : IndexReg) (d : Byte) (s : State) : Result := .next (aluOnMemXy .xor xy d s)

/-! ### OR (R267) -/

/-- OR r' (R267, R260). -/
def execOrR (r : Reg8) (s : State) : Result := .next (aluOnReg .or r s)

/-- OR (HL) (R267, R260). -/
def execOrMemHl (s : State) : Result := .next (aluOnMemHl .or s)

/-- OR n (R267, R260). -/
def execOrN (n : Byte) (s : State) : Result := .next (aluOnImmediate .or n s)

/-- OR XYH/XYL (R267, R260). -/
def execOrXyHalf (xy : IndexReg) (h : Half) (s : State) : Result := .next (aluOnXyHalf .or xy h s)

/-- OR (XY+d) (R267, R260). -/
def execOrMemXy (xy : IndexReg) (d : Byte) (s : State) : Result := .next (aluOnMemXy .or xy d s)

/-! ### CP (R268) -/

/-- CP r' (R268, R260). -/
def execCpR (r : Reg8) (s : State) : Result := .next (aluOnReg .cp r s)

/-- CP (HL) (R268, R260). -/
def execCpMemHl (s : State) : Result := .next (aluOnMemHl .cp s)

/-- CP n (R268, R260). -/
def execCpN (n : Byte) (s : State) : Result := .next (aluOnImmediate .cp n s)

/-- CP XYH/XYL (R268, R260). -/
def execCpXyHalf (xy : IndexReg) (h : Half) (s : State) : Result := .next (aluOnXyHalf .cp xy h s)

/-- CP (XY+d) (R268, R260). -/
def execCpMemXy (xy : IndexReg) (d : Byte) (s : State) : Result := .next (aluOnMemXy .cp xy d s)

/-! ### Increment and decrement -/

/-- INC r (R270). -/
def execIncR (r : Reg8) (s : State) : Result := .next (modifyReg inc8 r 4 s)

/-- INC (HL) (R271). -/
def execIncMemHl (s : State) : Result := .next (modifyMem inc8 s.hl 11 s)

/-- INC (XY+d) (R272). -/
def execIncMemXy (xy : IndexReg) (d : Byte) (s : State) : Result := .next (modifyMemXy inc8 xy d 19 s)

/-- INC XYH/XYL (R273). -/
def execIncXyHalf (xy : IndexReg) (h : Half) (s : State) : Result := .next (modifyXyHalf inc8 xy h 4 s)

/-- DEC r (R274). -/
def execDecR (r : Reg8) (s : State) : Result := .next (modifyReg dec8 r 4 s)

/-- DEC (HL) (R275). -/
def execDecMemHl (s : State) : Result := .next (modifyMem dec8 s.hl 11 s)

/-- DEC (XY+d) (R276). -/
def execDecMemXy (xy : IndexReg) (d : Byte) (s : State) : Result := .next (modifyMemXy dec8 xy d 19 s)

/-- DEC XYH/XYL (R277). -/
def execDecXyHalf (xy : IndexReg) (h : Half) (s : State) : Result := .next (modifyXyHalf dec8 xy h 4 s)

end Sys2Proof.Machine
end

