-- ==== Sys2Proof/Machine/Arith16.lean ====
section
/-! DEFINITION. Meanings of the 16-bit arithmetic instructions (43_arith16.md R310 to R317). -/

namespace Sys2Proof.Machine

/-- ADD HL,rp (R310). -/
def execAddHlRp (rp : RegPair) (s : State) : Result :=
  let res := add16 s.hl (s.rp rp) s.cpu.f
  .next ((((s.setMemptr (s.hl + 1)).setHl res.1).setF res.2).charge 11 [])

/-- ADC HL,rp (R311). -/
def execAdcHlRp (rp : RegPair) (s : State) : Result :=
  let res := adc16 s.hl (s.rp rp) s.cpu.f
  .next ((((s.setMemptr (s.hl + 1)).setHl res.1).setF res.2).charge 11 [])

/-- SBC HL,rp (R312). -/
def execSbcHlRp (rp : RegPair) (s : State) : Result :=
  let res := sbc16 s.hl (s.rp rp) s.cpu.f
  .next ((((s.setMemptr (s.hl + 1)).setHl res.1).setF res.2).charge 11 [])

/-- ADD XY,rp (R313). -/
def execAddXyRp (xy : IndexReg) (rp : IndexPair) (s : State) : Result :=
  let res := add16 (s.xy xy) (s.indexPair xy rp) s.cpu.f
  .next ((((s.setMemptr (s.xy xy + 1)).setXy xy res.1).setF res.2).charge 11 [])

/-- INC rp (R314). -/
def execIncRp (rp : RegPair) (s : State) : Result := .next ((s.setRp rp (s.rp rp + 1)).charge 6 [])

/-- INC XY (R315). -/
def execIncXy (xy : IndexReg) (s : State) : Result := .next ((s.setXy xy (s.xy xy + 1)).charge 6 [])

/-- DEC rp (R316). -/
def execDecRp (rp : RegPair) (s : State) : Result := .next ((s.setRp rp (s.rp rp - 1)).charge 6 [])

/-- DEC XY (R317). -/
def execDecXy (xy : IndexReg) (s : State) : Result := .next ((s.setXy xy (s.xy xy - 1)).charge 6 [])

end Sys2Proof.Machine
end

