-- ==== Sys2Proof/Machine/Control.lean ====
section
/-! DEFINITION. Meanings of the general-purpose arithmetic and CPU control instructions (42_general_control.md R290 to
R303). -/

namespace Sys2Proof.Machine

/-- DAA (R290). -/
def execDaa (s : State) : Result :=
  .next (((s.setA (daaResult s.cpu.a s.cpu.f).1).setF (daaResult s.cpu.a s.cpu.f).2).charge 4 [])

/-- CPL (R291). -/
def execCpl (s : State) : Result := .next (((s.setA (~~~s.cpu.a)).setF (cplF (~~~s.cpu.a) s.cpu.f)).charge 4 [])

/-- NEG and its duplicates (R292): SUB of A from 0. -/
def execNeg (_y : BitVec 3) (s : State) : Result :=
  .next (((s.setA (sub8 0 s.cpu.a false).1).setF (sub8 0 s.cpu.a false).2).charge 4 [])

/-- CCF (R293). -/
def execCcf (s : State) : Result := .next ((s.setF (ccfF s.cpu.a s.cpu.f)).charge 4 [])

/-- SCF (R294). -/
def execScf (s : State) : Result := .next ((s.setF (scfF s.cpu.a s.cpu.f)).charge 4 [])

/-- NOP (R295). -/
def execNop (s : State) : Result := .next (s.charge 4 [])

/-- HALT (R296): PC keeps the address after it. -/
def execHalt (s : State) : Result := .next ((s.setHalted true).charge 4 [])

/-- DI (R297). -/
def execDi (s : State) : Result := .next ((s.setIff false false).charge 4 [])

/-- EI (R298). -/
def execEi (s : State) : Result := .next (((s.setIff true true).setEiBlock true).charge 4 [])

/-- IM 0 (R299). -/
def execIm0 (_y : BitVec 1) (s : State) : Result := .next ((s.setIm .im0).charge 4 [])

/-- The undocumented IM 0/1 (R302): IM 0. -/
def execIm0Undoc (_y : BitVec 1) (s : State) : Result := .next ((s.setIm .im0).charge 4 [])

/-- IM 1 (R300). -/
def execIm1 (_y : BitVec 1) (s : State) : Result := .next ((s.setIm .im1).charge 4 [])

/-- IM 2 (R301). -/
def execIm2 (_y : BitVec 1) (s : State) : Result := .next ((s.setIm .im2).charge 4 [])

/-- The undefined opcodes ED 77 and ED 7F (R303, R129): a NOP. -/
def execNopEd7 (_y : BitVec 1) (s : State) : Result := .next (s.charge 4 [])

/-- The undefined opcodes ED 00 to ED 3F (R303, R129): a NOP. -/
def execNopEd0 (_o : BitVec 6) (s : State) : Result := .next (s.charge 4 [])

/-- The undefined opcodes ED C0 to ED FF (R303, R129): a NOP. -/
def execNopEd3 (_o : BitVec 6) (s : State) : Result := .next (s.charge 4 [])

/-- The undefined opcodes among ED 80 to ED BF (R303, R129): a NOP. -/
def execNopEd2 (_o : BitVec 6) (s : State) : Result := .next (s.charge 4 [])

end Sys2Proof.Machine
end

