-- ==== Sys2Proof/Machine/Exchange.lean ====
section
/-! DEFINITION. Meanings of the exchanges and of the block transfer and search instructions (40_load_exchange.md R235 to
R247). -/

namespace Sys2Proof.Machine

/-- EX DE,HL (R235). -/
def execExDeHl (s : State) : Result := .next (((s.setDe s.hl).setHl s.de).charge 4 [])

/-- EX AF,AF' (R236). -/
def execExAfAf (s : State) : Result :=
  .next (State.charge { s with cpu := { s.cpu with a := s.cpu.a', f := s.cpu.f', a' := s.cpu.a, f' := s.cpu.f } } 4 [])

/-- EXX (R237). -/
def execExx (s : State) : Result :=
  .next (State.charge
    { s with cpu := { s.cpu with
        b := s.cpu.b', c := s.cpu.c', d := s.cpu.d', e := s.cpu.e', h := s.cpu.h', l := s.cpu.l'
        b' := s.cpu.b, c' := s.cpu.c, d' := s.cpu.d, e' := s.cpu.e, h' := s.cpu.h, l' := s.cpu.l } } 4 [])

/-- EX (SP),HL (R238). -/
def execExMemSpHl (s : State) : Result := .next ((exchangeStack s.hl s).setHl (s.memRead16 s.cpu.sp))

/-- EX (SP),XY (R239). -/
def execExMemSpXy (xy : IndexReg) (s : State) : Result :=
  .next ((exchangeStack (s.xy xy) s).setXy xy (s.memRead16 s.cpu.sp))

/-! ### Block transfer -/

/-- LDI (R240). -/
def execLdi (s : State) : Result := .next ((ldBlock .inc s).charge 12 [readAt s.hl, writeAt s.de])

/-- LDD (R242). -/
def execLdd (s : State) : Result := .next ((ldBlock .dec s).charge 12 [readAt s.hl, writeAt s.de])

/-- One iteration of LDIR or LDDR (R241, R243): it repeats while BC is not 0 after the decrement. -/
def ldBlockRepeat (dir : Dir) (s : State) : State :=
  let s1 := ldBlock dir s
  if s1.bc ≠ 0 then s1.repeatBlock.charge 17 [readAt s.hl, writeAt s.de]
  else s1.charge 12 [readAt s.hl, writeAt s.de]

/-- LDIR (R241). -/
def execLdir (s : State) : Result := .next (ldBlockRepeat .inc s)

/-- LDDR (R243). -/
def execLddr (s : State) : Result := .next (ldBlockRepeat .dec s)

/-! ### Block search -/

/-- CPI (R244). -/
def execCpi (s : State) : Result := .next ((cpBlock .inc s).charge 12 [readAt s.hl])

/-- CPD (R246). -/
def execCpd (s : State) : Result := .next ((cpBlock .dec s).charge 12 [readAt s.hl])

/-- One iteration of CPIR or CPDR (R245, R247): it repeats while BC is not 0 after the decrement and the byte is not A. -/
def cpBlockRepeat (dir : Dir) (s : State) : State :=
  let s1 := cpBlock dir s
  if s1.bc ≠ 0 ∧ s.cpu.a - s.memRead s.hl ≠ 0 then s1.repeatBlock.charge 17 [readAt s.hl]
  else s1.charge 12 [readAt s.hl]

/-- CPIR (R245). -/
def execCpir (s : State) : Result := .next (cpBlockRepeat .inc s)

/-- CPDR (R247). -/
def execCpdr (s : State) : Result := .next (cpBlockRepeat .dec s)

end Sys2Proof.Machine
end

