-- ==== Sys2Proof/Machine/Tzx.lean ====
section
/-! DEFINITION. The TZX decoder `ReadContent` (49_tzx.md R490 to R509): from the bytes of a file to its ordered list of
typed blocks, or a fatal error. Multi-byte fields are little-endian. -/

namespace Sys2Proof.Machine

/-- The first eight bytes of a TZX file: "ZXTape!" and 0x1A (R490). -/
def tzxSignature : List Byte := [0x5A, 0x58, 0x54, 0x61, 0x70, 0x65, 0x21, 0x1A]

/-- The block IDs of TZX 1.20 (R493), current and deprecated. -/
def tzxRegistry : List Byte :=
  [0x10, 0x11, 0x12, 0x13, 0x14, 0x15, 0x18, 0x19, 0x20, 0x21, 0x22, 0x23, 0x24, 0x25, 0x26, 0x27, 0x28, 0x2A, 0x2B,
    0x30, 0x31, 0x32, 0x33, 0x35, 0x5A] ++ [0x16, 0x17, 0x34, 0x40]

/-- A BYTE field at an offset of a body. -/
def byteField (body : List Byte) (o : Nat) : Byte := body.getD o 0

/-- A WORD field. -/
def wordField (body : List Byte) (o : Nat) : Word := word (byteField body (o + 1)) (byteField body o)

/-- A field of `k` bytes as a number, least significant byte first (BYTE3, DWORD). -/
def numberField (body : List Byte) (o : Nat) : Nat → Nat
  | 0 => 0
  | k + 1 => (byteField body o).toNat + 256 * numberField body (o + 1) k

/-- The WORDs of a list of bytes. -/
def wordsOf : List Byte → List Word
  | lo :: hi :: rest => word hi lo :: wordsOf rest
  | _ => []

/-- The entries of three bytes of a list of bytes. -/
def triplesOf : List Byte → List (Byte × Byte × Byte)
  | a :: b :: c :: rest => (a, b, c) :: triplesOf rest
  | _ => []

/-- A text and what follows it, of bytes that begin with its length; `none` where they end before the text does. -/
def lengthText : List Byte → Option (List Byte × List Byte)
  | [] => none
  | len :: rest => if len.toNat ≤ rest.length then some (rest.take len.toNat, rest.drop len.toNat) else none

/-- At most `count` entries, each read by `entry` from the bytes behind the one before, and the bytes behind the last;
it ends early where `entry` finds none (notes/assumptions/15.md). -/
def entriesOf {α : Type} (entry : List Byte → Option (α × List Byte)) : Nat → List Byte → List α × List Byte
  | 0, bytes => ([], bytes)
  | count + 1, bytes =>
    match entry bytes with
    | none => ([], bytes)
    | some (x, rest) => (x :: (entriesOf entry count rest).1, (entriesOf entry count rest).2)

/-- One entry of a 0x28 block: signed WORD offset, BYTE L, CHAR[L] (R503). -/
def selection : List Byte → Option (Selection × List Byte)
  | lo :: hi :: rest => (lengthText rest).map fun (text, rest) => (⟨word hi lo, text⟩, rest)
  | _ => none

/-- The text ids of a 0x32 block (R506). -/
def archiveTextId (id : Byte) : ArchiveTextId :=
  if id = 0x00 then .title else if id = 0x01 then .publisher else .other id

/-- One entry of a 0x32 block: BYTE text id, BYTE length M, CHAR[M] (R506). -/
def archiveText : List Byte → Option (ArchiveText × List Byte)
  | id :: rest => (lengthText rest).map fun (text, rest) => (⟨archiveTextId id, text⟩, rest)
  | _ => none

/-- The 0x28 block whose body is these bytes behind its length (R503). -/
def selectBlockOf : List Byte → TzxBlock
  | [] => .selectBlock none [] []
  | n :: rest => .selectBlock (some n) (entriesOf selection n.toNat rest).1 (entriesOf selection n.toNat rest).2

/-- The 0x32 block whose body is these bytes behind its length (R506). -/
def archiveInfoOf : List Byte → TzxBlock
  | [] => .archiveInfo none [] []
  | n :: rest => .archiveInfo (some n) (entriesOf archiveText n.toNat rest).1 (entriesOf archiveText n.toNat rest).2

/-- The 0x2B block whose body is these bytes behind its length (R504). -/
def setSignalLevelOf : List Byte → TzxBlock
  | [] => .setSignalLevel none []
  | level :: rest => .setSignalLevel (some level) rest

/-- The 0x18 block of a body (R500). -/
def cswRecordingOf (body : List Byte) : TzxBlock :=
  if 14 ≤ body.length then
    .cswRecording (some ⟨wordField body 4, numberField body 6 3, byteField body 9, numberField body 10 4⟩) (body.drop 14)
  else .cswRecording none (body.drop 4)

/-- The 0x19 block of a body (R500). -/
def generalizedDataOf (body : List Byte) : TzxBlock :=
  if 18 ≤ body.length then
    .generalizedData
      (some ⟨wordField body 4, numberField body 6 4, byteField body 10, byteField body 11, numberField body 12 4,
        byteField body 16, byteField body 17⟩)
      (body.drop 18)
  else .generalizedData none (body.drop 4)

/-- How many bytes of the body give its length, and the length they give (R496 to R509): `BodyLength` is the second,
known only where the body has the first. -/
def bodyShape (id : Byte) (body : List Byte) : Nat × Nat :=
  match id.toNat with
  | 0x10 => (4, 4 + (wordField body 2).toNat)
  | 0x11 => (18, 18 + numberField body 15 3)
  | 0x12 => (4, 4)
  | 0x13 => (1, 1 + 2 * (byteField body 0).toNat)
  | 0x14 => (10, 10 + numberField body 7 3)
  | 0x15 => (8, 8 + numberField body 5 3)
  | 0x16 => (4, 4 + numberField body 0 4)
  | 0x17 => (4, 4 + numberField body 0 4)
  | 0x18 => (4, 4 + numberField body 0 4)
  | 0x19 => (4, 4 + numberField body 0 4)
  | 0x20 => (2, 2)
  | 0x21 => (1, 1 + (byteField body 0).toNat)
  | 0x23 => (2, 2)
  | 0x24 => (2, 2)
  | 0x26 => (2, 2 + 2 * (wordField body 0).toNat)
  | 0x28 => (2, 2 + (wordField body 0).toNat)
  | 0x2A => (4, 4 + numberField body 0 4)
  | 0x2B => (4, 4 + numberField body 0 4)
  | 0x30 => (1, 1 + (byteField body 0).toNat)
  | 0x31 => (2, 2 + (byteField body 1).toNat)
  | 0x32 => (2, 2 + (wordField body 0).toNat)
  | 0x33 => (1, 1 + 3 * (byteField body 0).toNat)
  | 0x34 => (8, 8)
  | 0x35 => (20, 20 + numberField body 16 4)
  | 0x40 => (4, 4 + numberField body 1 3)
  | 0x5A => (9, 9)
  | _ => (0, 0)

/-- `BodyLength` of a block whose body begins the bytes given, `none` where they end before its length field or before
the length it declares (R495). -/
def bodyLength (id : Byte) (rest : List Byte) : Option Nat :=
  if (bodyShape id rest).1 ≤ rest.length ∧ (bodyShape id rest).2 ≤ rest.length then some (bodyShape id rest).2 else none

/-- The typed block of an ID of the registry and its body (R496 to R509). -/
def decodeTapeBlock (id : Byte) (body : List Byte) : TzxBlock :=
  match id.toNat with
  | 0x10 => .standardSpeed (wordField body 0) (body.drop 4)
  | 0x11 =>
    .turboSpeed (wordField body 0) (wordField body 2) (wordField body 4) (wordField body 6) (wordField body 8)
      (wordField body 10) (byteField body 12) (wordField body 13) (body.drop 18)
  | 0x12 => .pureTone (wordField body 0) (wordField body 2)
  | 0x13 => .pulseSequence (wordsOf (body.drop 1))
  | 0x14 => .pureData (wordField body 0) (wordField body 2) (byteField body 4) (wordField body 5) (body.drop 10)
  | 0x15 => .directRecording (wordField body 0) (wordField body 2) (byteField body 4) (body.drop 8)
  | 0x18 => cswRecordingOf body
  | 0x19 => generalizedDataOf body
  | 0x20 => .pause (wordField body 0)
  | 0x21 => .groupStart (body.drop 1)
  | 0x22 => .groupEnd
  | 0x23 => .jumpToBlock (wordField body 0)
  | 0x24 => .loopStart (wordField body 0)
  | 0x25 => .loopEnd
  | 0x26 => .callSequence (wordsOf (body.drop 2))
  | 0x27 => .returnFromSequence
  | 0x28 => selectBlockOf (body.drop 2)
  | 0x2A => .stopIf48K (body.drop 4)
  | 0x2B => setSignalLevelOf (body.drop 4)
  | 0x30 => .textDescription (body.drop 1)
  | 0x31 => .message (byteField body 0) (body.drop 2)
  | 0x32 => archiveInfoOf (body.drop 2)
  | 0x33 => .hardwareType (triplesOf (body.drop 1))
  | 0x35 => .customInfo (body.take 16) (body.drop 20)
  | 0x5A => .glue (body.take 7) (byteField body 7) (byteField body 8)
  | _ => .deprecated id

/-- The loop of `ReadContent` (R492) over the bytes from offset `o` on; `fuel` bounds the number of blocks. -/
def readBlocks : Nat → Nat → List Byte → Except TapeFormatError (List TzxBlock)
  | _, _, [] => .ok []
  | 0, _, _ => .ok []
  | fuel + 1, o, id :: rest =>
    if tzxRegistry.contains id then
      match bodyLength id rest with
      | none => .error (.truncated id o)
      | some n =>
        match readBlocks fuel (o + 1 + n) (rest.drop n) with
        | .ok blocks => .ok (decodeTapeBlock id (rest.take n) :: blocks)
        | .error e => .error e
    else .error (.unknownBlock id o)

/-- `ReadContent(file)` (R490 to R495). -/
def readContent (file : List Byte) : Except TapeFormatError (List TzxBlock) :=
  if file.length < 10 ∨ file.take 8 ≠ tzxSignature then .error .badHeader
  else readBlocks file.length 10 (file.drop 10)

end Sys2Proof.Machine
end

