-- ==== Sys2Proof/Machine/Player.lean ====
section
/-! DEFINITION. The tape player (49_tzx.md R510 to R529): the timeline of a playable block, `InitPlay`, `NextBlock`,
`GetEarBit`. -/

namespace Sys2Proof.Machine

/-- The block ID (R493). -/
def TzxBlock.id : TzxBlock → Byte
  | .standardSpeed _ _ => 0x10
  | .turboSpeed _ _ _ _ _ _ _ _ _ => 0x11
  | .pureTone _ _ => 0x12
  | .pulseSequence _ => 0x13
  | .pureData _ _ _ _ _ => 0x14
  | .directRecording _ _ _ _ => 0x15
  | .cswRecording _ _ => 0x18
  | .generalizedData _ _ => 0x19
  | .pause _ => 0x20
  | .groupStart _ => 0x21
  | .groupEnd => 0x22
  | .jumpToBlock _ => 0x23
  | .loopStart _ => 0x24
  | .loopEnd => 0x25
  | .callSequence _ => 0x26
  | .returnFromSequence => 0x27
  | .selectBlock _ _ _ => 0x28
  | .stopIf48K _ => 0x2A
  | .setSignalLevel _ _ => 0x2B
  | .textDescription _ => 0x30
  | .message _ _ => 0x31
  | .archiveInfo _ _ _ => 0x32
  | .hardwareType _ => 0x33
  | .customInfo _ _ => 0x35
  | .glue _ _ _ => 0x5A
  | .deprecated id => id

/-- The three classes of R510. -/
inductive PlaybackClass where
  | playable | skipped | refused
  deriving DecidableEq, Repr

/-- The class of a block (R510). -/
def TzxBlock.playback : TzxBlock → PlaybackClass
  | .standardSpeed .. | .turboSpeed .. => .playable
  | .pause d => if d = 0 then .refused else .playable
  | .groupStart _ | .groupEnd | .textDescription _ | .message .. | .archiveInfo .. | .hardwareType _ | .customInfo ..
  | .glue .. | .deprecated _ => .skipped
  | .pureTone .. | .pulseSequence _ | .pureData .. | .directRecording .. | .cswRecording .. | .generalizedData ..
  | .jumpToBlock _ | .loopStart _ | .loopEnd | .callSequence _ | .returnFromSequence | .selectBlock .. | .stopIf48K _
  | .setSignalLevel .. => .refused

/-! ### The timeline of a block (R515 to R520, R526) -/

/-- What the pulses of a playable block depend on (R515); a pause block has only its pause (R526). -/
structure Timeline where
  pilotPulse : Nat
  pilotCount : Nat
  sync1 : Nat
  sync2 : Nat
  bit0 : Nat
  bit1 : Nat
  /-- The bits sent, in order (R518). -/
  bits : List Bool
  /-- N, the number of data bytes (R519). -/
  byteCount : Nat
  /-- The pause in tacts (R527). -/
  pauseTacts : Nat
  deriving DecidableEq, Repr

/-- The eight bits of a byte, most significant first (R518). -/
def bitsOf (v : Byte) : List Bool :=
  [v.getLsbD 7, v.getLsbD 6, v.getLsbD 5, v.getLsbD 4, v.getLsbD 3, v.getLsbD 2, v.getLsbD 1, v.getLsbD 0]

/-- The bits sent of data bytes whose last byte has `usedBits` bits (R518). -/
def sentBits (data : List Byte) (usedBits : Nat) : List Bool :=
  (data.flatMap bitsOf).take (8 * data.length - (8 - usedBits))

/-- The pilot pulses of a 0x10 block (R516): its first byte is the flag byte. -/
def standardPilotCount : List Byte → Nat
  | [] => headerPilotCount
  | flag :: _ => if flag.toNat < 0x80 then headerPilotCount else dataPilotCount

/-- The timeline of a playable block; `none` for the others. A 0x20 block has no bytes and no bits: DESIGN CHOICE, its
ByteIndex is 0 and its BitMask 0x80 while it plays, which R526 leaves open (notes/assumptions/21.md). -/
def TzxBlock.timeline : TzxBlock → Option Timeline
  | .standardSpeed pauseAfter data =>
    some ⟨pilotPulse, standardPilotCount data, sync1Pulse, sync2Pulse, bit0Pulse, bit1Pulse, sentBits data 8,
      data.length, pauseAfter.toNat * tactsPerMs⟩
  | .turboSpeed pilot s1 s2 b0 b1 tone used pauseAfter data =>
    some ⟨pilot.toNat, tone.toNat, s1.toNat, s2.toNat, b0.toNat, b1.toNat, sentBits data used.toNat, data.length,
      pauseAfter.toNat * tactsPerMs⟩
  | .pause d => some ⟨0, 0, 0, 0, 0, 0, [], 0, d.toNat * tactsPerMs⟩
  | _ => none

/-- `pilotEnd` (R516, R517). -/
def Timeline.pilotEnd (t : Timeline) : Nat := t.pilotCount * t.pilotPulse

/-- `syncEnd` (R517). -/
def Timeline.syncEnd (t : Timeline) : Nat := t.pilotEnd + t.sync1 + t.sync2

/-- The half-length of a bit (R518). -/
def Timeline.half (t : Timeline) (bit : Bool) : Nat := if bit then t.bit1 else t.bit0

/-- The tacts of a list of bits, each two halves long (R518). -/
def Timeline.bitsLength (t : Timeline) : List Bool → Nat
  | [] => 0
  | bit :: rest => 2 * t.half bit + t.bitsLength rest

/-- `dataEnd` (R518). -/
def Timeline.dataEnd (t : Timeline) : Nat := t.syncEnd + t.bitsLength t.bits

/-- `Duration` (R520). -/
def Timeline.duration (t : Timeline) : Nat := t.dataEnd + t.pauseTacts

/-- What a position of a timeline shows: the level and the block's play state (R512). -/
structure TapePoint where
  level : Bool
  phase : PlayPhase
  byteIndex : Nat
  bitMask : Byte
  deriving DecidableEq, Repr

/-- The point of the Data phase at `pos` tacts after the start of bit `k`, the first of the bits (R518): low in the first
half, high in the second. -/
def Timeline.bitPoint (t : Timeline) : List Bool → Nat → Nat → Option TapePoint
  | [], _, _ => none
  | bit :: rest, k, pos =>
    if pos < 2 * t.half bit then some ⟨decide (t.half bit ≤ pos), .data, k / 8, 0x80#8 >>> (k % 8)⟩
    else t.bitPoint rest (k + 1) (pos - 2 * t.half bit)

/-- `At(block, pos)`: Pilot (R516), Sync (R517), Data (R518), Pause (R519), Completed (R520). -/
def Timeline.at (t : Timeline) (pos : Nat) : TapePoint :=
  if pos < t.pilotEnd then ⟨pos / t.pilotPulse % 2 == 0, .pilot, 0, 0x80⟩
  else if pos < t.syncEnd then ⟨decide (t.pilotEnd + t.sync1 ≤ pos), .sync, 0, 0x80⟩
  else
    match t.bitPoint t.bits 0 (pos - t.syncEnd) with
    | some point => point
    | none => ⟨pauseLevel, if pos < t.duration then .pause else .completed, t.byteCount, 0x80⟩

/-! ### The player (R513, R514, R521, R522) -/

/-- The first block of a list that is not skipped, with its index, the list beginning at index `i` (R522). -/
def nextUnskipped : List TzxBlock → Nat → Option (Nat × TzxBlock)
  | [], _ => none
  | b :: rest, i => if b.playback = .skipped then nextUnskipped rest (i + 1) else some (i, b)

/-- `UsedBits` of a 0x11 block is 1 to 8; a condition on no other block (R514). -/
def TzxBlock.usedBitsOk : TzxBlock → Bool
  | .turboSpeed _ _ _ _ _ _ used _ _ => decide (1 ≤ used.toNat) && decide (used.toNat ≤ 8)
  | _ => true

/-- `InitPlayBlock(b, s)` of the block at an index (R514). DEDUCED: the block's phase is that of position 0 also for a 0x11
block with `PilotToneLength` > 0 whose pilot pulses have length 0, where R514 says Pilot (notes/assumptions/22.md). -/
def Tape.initPlayBlock (p : Tape) (index : Nat) (b : TzxBlock) (s : Nat) : Host.Outcome Tape Fault Refusal :=
  match b.timeline with
  | none => .refused (.unsupportedTapeBlock b.id)
  | some t =>
    if b.playback = .playable ∧ b.usedBitsOk = true then
      .next { p with
        currentBlockIndex := index
        currentBlock := some b
        blockStart := s
        blockPhase := (t.at 0).phase
        byteIndex := 0
        bitMask := 0x80 }
    else .refused (.unsupportedTapeBlock b.id)

/-- `NextBlock(s)` (R522). -/
def Tape.nextBlock (s : Nat) (p : Tape) : Host.Outcome Tape Fault Refusal :=
  let i := (p.currentBlockIndex + 1).toNat
  match nextUnskipped (p.blocks.drop i) i with
  | none => .next { p with playPhase := .completed, currentBlock := none }
  | some (index, b) => p.initPlayBlock index b s

/-- `InitPlay(t)` (R513). -/
def Tape.initPlay (t : Nat) (p : Tape) : Host.Outcome Tape Fault Refusal :=
  Tape.nextBlock t
    { p with playing := true, playPhase := .none, currentBlockIndex := -1, currentBlock := none, lastQueryTact := t }

/-- The loop of `GetEarBit(t)` (R521), at most `fuel` turns: pass over the blocks that end at or before `t`. -/
def Tape.advance : Nat → Nat → Tape → Host.Outcome Tape Fault Refusal
  | 0, _, p => .next p
  | fuel + 1, t, p =>
    match p.playPhase, p.currentBlock.bind TzxBlock.timeline with
    | .completed, _ => .next p
    | _, none => .next p
    | _, some tl =>
      if p.blockStart + tl.duration ≤ t then
        andThen (Tape.nextBlock (p.blockStart + tl.duration) { p with blockPhase := .completed }) (Tape.advance fuel t)
      else .next p

/-- The level at `t` of a player that the loop has brought there, and the play state it leaves (R521, R524). -/
def Tape.sample (t : Nat) (p : Tape) : Host.Outcome (Bool × Tape) Fault Refusal :=
  match p.playPhase, p.currentBlock.bind TzxBlock.timeline with
  | .completed, _ => .next (completedLevel, p)
  | _, none => .refused .noCurrentTapeBlock
  | _, some tl =>
    let point := tl.at (t - p.blockStart)
    .next (point.level,
      { p with blockPhase := point.phase, byteIndex := point.byteIndex, bitMask := point.bitMask })

/-- `GetEarBit(t)` (R521). The loop makes at most one turn for each block of the list. -/
def Tape.getEarBit (t : Nat) (p : Tape) : Host.Outcome (Bool × Tape) Fault Refusal :=
  if t < p.lastQueryTact then .refused .tapeTimeReversed
  else andThen (Tape.advance (p.blocks.length + 1) t { p with lastQueryTact := t }) (Tape.sample t)

end Sys2Proof.Machine
end

