-- ==== Sys2Proof/Machine/Ula.lean ====
section
/-! DEFINITION. The ULA (48_ula.md): the mapping from frame tacts to pixels, painting, catch-up rendering, frame
completion, the frame interrupt, and the effect of a ULA port write. -/

namespace Sys2Proof.Machine

/-! ### Tact to pixel (R448, R449) -/

/-- The raster line of a frame tact. -/
def lineOf (u : Nat) : Nat := u / screenLineTime

/-- The tact within its raster line. -/
def lineTactOf (u : Nat) : Nat := u % screenLineTime

/-- A frame tact that paints two pixels (R449). -/
def tactVisible (u : Nat) : Bool :=
  decide (firstVisibleLine ≤ lineOf u) && decide (lineOf u < firstVisibleLine + screenLines) &&
    decide (horizontalBlankingTime ≤ lineTactOf u) && decide (lineTactOf u < horizontalBlankingTime + visibleLineTime)

/-- The row a visible tact paints. -/
def rowOf (u : Nat) : Nat := lineOf u - firstVisibleLine

/-- The first of the two columns a visible tact paints. -/
def colOf (u : Nat) : Nat := 2 * (lineTactOf u - horizontalBlankingTime)

/-- A visible pixel of the display area (R449). -/
def inDisplay (row col : Nat) : Bool :=
  decide (borderTopLines ≤ row) && decide (row < borderTopLines + displayLines) && decide (2 * borderLeftTime ≤ col) &&
    decide (col < 2 * (borderLeftTime + displayLineTime))

/-! ### The display file (R451) -/

/-- The address of the pixel byte of display coordinates (x, y); the four fields do not overlap. -/
def pixelAddress (x y : Nat) : Nat := 0x4000 + y / 64 * 2048 + y % 8 * 256 + y / 8 % 8 * 32 + x / 8

/-- The address of the attribute byte of display coordinates (x, y). -/
def attrAddress (x y : Nat) : Nat := 0x5800 + y / 8 * 32 + x / 8

/-! ### Painting (R450, R452) -/

/-- The colour of pixel `x` of a display cell: ink where its bit is 1, paper where it is 0, bright added, the two swapped
in the flash phase (R452). -/
def cellColour (pixels attr : Byte) (flashPhase : Bool) (x : Nat) : Colour :=
  let ink := attr.extractLsb' 0 3
  let paper := attr.extractLsb' 3 3
  let swapped := attr.getLsbD 7 && flashPhase
  let bit := pixels.getLsbD (7 - x % 8)
  attr.extractLsb' 6 1 ++ (if bit != swapped then ink else paper)

/-- The colour of the pixel (row, col) with the latches and the border as they are (R450, R452). -/
def Ula.colourAt (v : Ula) (row col : Nat) : Colour :=
  if inDisplay row col then cellColour v.pixelLatch v.attrLatch v.flashPhase (col - 2 * borderLeftTime)
  else v.borderColour.setWidth 4

/-- Write one pixel of the buffer (R450). -/
def Ula.paintPixel (v : Ula) (row col : Nat) : Ula :=
  { v with buffer := v.buffer.store row col (v.colourAt row col) }

/-- Latch the bytes of a display cell when its first tact is painted (R452); the reads are direct reads of memory. -/
def Ula.latchCell (m : Memory) (v : Ula) (row col : Nat) : Ula :=
  let x := col - 2 * borderLeftTime
  let y := row - borderTopLines
  if inDisplay row col && x % 8 == 0 then
    { v with pixelLatch := m.read (pixelAddress x y), attrLatch := m.read (attrAddress x y) }
  else v

/-- `Paint(u)` (R450): two pixels of a visible tact, nothing of an invisible one. -/
def Ula.paint (m : Memory) (v : Ula) (u : Nat) : Ula :=
  if tactVisible u then
    ((v.latchCell m (rowOf u) (colOf u)).paintPixel (rowOf u) (colOf u)).paintPixel (rowOf u) (colOf u + 1)
  else v

/-- Paint `count` tacts from `first` on. -/
def Ula.paintMany (m : Memory) : Nat → Nat → Ula → Ula
  | 0, _, v => v
  | count + 1, first, v => Ula.paintMany m count (first + 1) (v.paint m first)

/-- `RenderTo(f)` (R453). -/
def Ula.renderTo (m : Memory) (f : Int) (v : Ula) : Ula :=
  let last := min f (frameTacts - 1 : Nat)
  let first := (v.lastRenderedTact + 1).toNat
  { Ula.paintMany m ((last + 1).toNat - first) first v with lastRenderedTact := max v.lastRenderedTact last }

/-! ### Frames (R442 to R447) -/

/-- The flash phase after a number of completed frames (R447). -/
def flashPhaseAfter (frames : Nat) : Bool := frames / flashToggleFrames % 2 == 1

/-- One turn of the loop of `CompleteFrames(t)`: finish the frame and begin the next one (R443, R444). -/
def Ula.completeFrame (m : Memory) (t : Nat) (v : Ula) : Ula :=
  let v1 := v.renderTo m (frameTacts - 1 : Nat)
  { v1 with
    frameCount := v1.frameCount + 1
    frameStart := v1.frameStart + frameTacts
    overflow := t - (v1.frameStart + frameTacts)
    flashPhase := flashPhaseAfter (v1.frameCount + 1)
    lastRenderedTact := -1 }

/-- At most `fuel` turns of the loop of `CompleteFrames(t)`. -/
def Ula.completeFramesLoop (m : Memory) (t : Nat) : Nat → Ula → Ula
  | 0, v => v
  | fuel + 1, v =>
    if v.frameStart + frameTacts ≤ t then Ula.completeFramesLoop m t fuel (v.completeFrame m t) else v

/-- `CompleteFrames(t)` (R443): the loop makes at most `(t - frameStart) / FrameTacts` turns. -/
def Ula.completeFrames (m : Memory) (t : Nat) (v : Ula) : Ula :=
  v.completeFramesLoop m t ((t - v.frameStart) / frameTacts)

/-- The tact is not below that of the ULA's last call in the frame (R455; notes/assumptions/12.md). -/
def Ula.timeOk (v : Ula) (t : Nat) : Bool :=
  decide (v.frameStart ≤ t) && decide (v.lastRenderedTact ≤ ((t - v.frameStart : Nat) : Int))

/-- The ULA's work after a CPU step that ends at tact `t` (R445). -/
def Ula.catchUp (m : Memory) (t : Nat) (v : Ula) : Ula :=
  let v1 := v.completeFrames m t
  v1.renderTo m ((t : Int) - v1.frameStart)

/-- A ULA port write of `x` at tact `t`: what lies before `t` is painted with the old border (R454), then border, MIC and
EAR are latched (R457). -/
def Ula.writePort (m : Memory) (t : Nat) (x : Byte) (v : Ula) : Ula :=
  let v1 := v.completeFrames m t
  { v1.renderTo m ((t : Int) - v1.frameStart - 1) with
    borderColour := x.extractLsb' 0 3
    micOut := x.getLsbD 3
    earOut := x.getLsbD 4 }

/-- The level of the maskable interrupt input (R446). -/
def State.intLine (s : State) : Bool :=
  decide (s.env.interruptTact ≤ s.frameTact) && decide (s.frameTact < s.env.interruptTact + intPulseTacts)

/-- The ULA's work at the end of a step (R445), with the check of R455. -/
def State.finishStep (s : State) : Result :=
  if s.ula.timeOk s.cpu.tacts then .next { s with ula := s.ula.catchUp s.mem s.cpu.tacts }
  else .refused .nonMonotonicDeviceTact

end Sys2Proof.Machine
end

