-- ==== Sys2Proof/Machine/Ports.lean ====
section
/-! DEFINITION. The I/O ports (20_memory.md R88 to R90; 48_ula.md R456 to R459). A port access is made at the tact the
counter holds when it is called: a meaning charges its tacts first (R89). -/

namespace Sys2Proof.Machine

/-- The ULA answers every port address with bit 0 zero (R456). -/
def isUlaPort (p : Word) : Bool := !p.getLsbD 0

/-- One half-row of keys, where its address line is 0 (R458). -/
def halfRow (h : Byte) (i : Nat) (lines : BitVec 5) : BitVec 5 := if h.getLsbD i then 0x1F else lines

/-- `KEYBOARD(h)`: the half-rows whose address bit is 0, ANDed together (R458). -/
def Keyboard.lines (k : Keyboard) (h : Byte) : BitVec 5 :=
  halfRow h 0 k.row0 &&& halfRow h 1 k.row1 &&& halfRow h 2 k.row2 &&& halfRow h 3 k.row3 &&& halfRow h 4 k.row4 &&&
    halfRow h 5 k.row5 &&& halfRow h 6 k.row6 &&& halfRow h 7 k.row7

/-- `EAR_IDLE` (R459, R7). -/
def State.earIdleLevel (s : State) : Bool :=
  match s.env.earIdle with
  | .level high => high
  | .earOut => s.ula.earOut
  | .free => Config.earIdleFree s.cpu.tacts

/-- The EAR input at the tact the counter holds (R459): the tape player where it plays, else `EAR_IDLE`. -/
def State.earInput (s : State) : Host.Outcome (Bool × State) Fault Refusal :=
  if s.tape.loaded && s.tape.playing then
    andThen (s.tape.getEarBit s.cpu.tacts) (fun x => .next (x.1, { s with tape := x.2 }))
  else .next (s.earIdleLevel, s)

/-- The byte a ULA port read returns (R458). -/
def ulaReadByte (ear : Bool) (lines : BitVec 5) : Byte := 1#1 ++ BitVec.ofBool ear ++ 1#1 ++ lines

/-- `PortRead(p)` (R88): the ULA's byte (R458), or `FLOATING_BUS` (R90). A ULA access is refused where its tact is below
the ULA's last (R455). -/
def portRead (p : Word) (s : State) : Host.Outcome (Byte × State) Fault Refusal :=
  if isUlaPort p then
    if s.ula.timeOk s.cpu.tacts then
      andThen s.earInput (fun x => .next (ulaReadByte x.1 (s.env.keyboard.lines (highByte p)), x.2))
    else .refused .nonMonotonicDeviceTact
  else .next (floatingBus, s)

/-- `PortWrite(p, v)` (R88): the ULA's latches (R454, R457), or nothing (R90). -/
def portWrite (p : Word) (v : Byte) (s : State) : Result :=
  if isUlaPort p then
    if s.ula.timeOk s.cpu.tacts then .next { s with ula := s.ula.writePort s.mem s.cpu.tacts v }
    else .refused .nonMonotonicDeviceTact
  else .next s

end Sys2Proof.Machine
end

