-- ==== Sys2Proof/Machine/Io.lean ====
section
/-! DEFINITION. Meanings of the input and output instructions (47_io.md R410 to R423). The tacts are charged before the
port access, which is presented at the end-of-instruction tact (20_memory.md R89). -/

namespace Sys2Proof.Machine

/-! ### Input -/

/-- IN A,(n) (R410). -/
def execInAN (n : Byte) (s : State) : Result :=
  let port := word s.cpu.a n
  andThen (portRead port (s.charge 11 [portReadAt port])) fun x => .next ((x.2.setA x.1).setMemptr (port + 1))

/-- IN r,(C) (R411). -/
def execInRC (r : Reg8) (s : State) : Result :=
  andThen (portRead s.bc (s.charge 8 [portReadAt s.bc])) fun x =>
    .next (((x.2.setReg r x.1).setF (inF x.1 s.cpu.f)).setMemptr (s.bc + 1))

/-- IN (C) (R412): no register takes the byte. -/
def execInC (s : State) : Result :=
  andThen (portRead s.bc (s.charge 8 [portReadAt s.bc])) fun x =>
    .next ((x.2.setF (inF x.1 s.cpu.f)).setMemptr (s.bc + 1))

/-- The sum `k` of INI and IND (R413, R415): the byte plus C moved one way, an exact sum. -/
def inBlockSum (dir : Dir) (v c : Byte) : Nat :=
  match dir with
  | .inc => v.toNat + (c + 1).toNat
  | .dec => v.toNat + (c - 1).toNat

/-- The effects of INI or IND after the port was read with the byte `v`; `s` is the state before the read's bookkeeping
(R413, R415). -/
def inBlockStore (dir : Dir) (v : Byte) (s : State) : State :=
  let b := s.cpu.b - 1
  (((s.memWrite s.hl v).setReg .b b).setHl (dir.move s.hl)).setMemptr (dir.move s.bc) |>.setF
    (ioBlockF v b (inBlockSum dir v s.cpu.c))

/-- INI or IND with their final step's tacts (R413, R415). -/
def inBlock (dir : Dir) (tacts : Nat) (s : State) : Result :=
  andThen (portRead s.bc (s.charge tacts [portReadAt s.bc, writeAt s.hl])) fun x => .next (inBlockStore dir x.1 x.2)

/-- One iteration of INIR or INDR (R414, R416): it repeats while B is not 0 after the decrement. -/
def inBlockRepeat (dir : Dir) (s : State) : Result :=
  if s.cpu.b - 1 ≠ 0 then andThen (inBlock dir 17 s) fun t => .next t.repeatPc else inBlock dir 12 s

/-- INI (R413). -/
def execIni (s : State) : Result := inBlock .inc 12 s

/-- IND (R415). -/
def execInd (s : State) : Result := inBlock .dec 12 s

/-- INIR (R414). -/
def execInir (s : State) : Result := inBlockRepeat .inc s

/-- INDR (R416). -/
def execIndr (s : State) : Result := inBlockRepeat .dec s

/-! ### Output -/

/-- OUT (n),A (R417). -/
def execOutNA (n : Byte) (s : State) : Result :=
  let port := word s.cpu.a n
  andThen (portWrite port s.cpu.a (s.charge 11 [portWriteAt port])) fun t => .next (t.setMemptr (word s.cpu.a (n + 1)))

/-- OUT (C),r (R418). -/
def execOutCR (r : Reg8) (s : State) : Result :=
  andThen (portWrite s.bc (s.reg r) (s.charge 8 [portWriteAt s.bc])) fun t => .next (t.setMemptr (s.bc + 1))

/-- OUT (C),0 (R419). -/
def execOutC0 (s : State) : Result :=
  andThen (portWrite s.bc 0 (s.charge 8 [portWriteAt s.bc])) fun t => .next (t.setMemptr (s.bc + 1))

/-- OUTI or OUTD with their final step's tacts (R420, R422): the port address has the decremented B; `k` uses L after its
update. -/
def outBlock (dir : Dir) (tacts : Nat) (s : State) : Result :=
  let v := s.memRead s.hl
  let b := s.cpu.b - 1
  let s1 := s.setReg .b b
  andThen (portWrite s1.bc v (s1.charge tacts [readAt s.hl, portWriteAt s1.bc])) fun t =>
    .next (((t.setMemptr (dir.move s1.bc)).setHl (dir.move s.hl)).setF
      (ioBlockF v b (v.toNat + (lowByte (dir.move s.hl)).toNat)))

/-- One iteration of OTIR or OTDR (R421, R423): it repeats while B is not 0 after the decrement. -/
def outBlockRepeat (dir : Dir) (s : State) : Result :=
  if s.cpu.b - 1 ≠ 0 then andThen (outBlock dir 17 s) fun t => .next t.repeatPc else outBlock dir 12 s

/-- OUTI (R420). -/
def execOuti (s : State) : Result := outBlock .inc 12 s

/-- OUTD (R422). -/
def execOutd (s : State) : Result := outBlock .dec 12 s

/-- OTIR (R421). -/
def execOtir (s : State) : Result := outBlockRepeat .inc s

/-- OTDR (R423). -/
def execOtdr (s : State) : Result := outBlockRepeat .dec s

end Sys2Proof.Machine
end

