-- ==== Sys2Proof/Machine/Jump.lean ====
section
/-! DEFINITION. Meanings of the jump, call, return and restart instructions (46_jump_call_return.md R380 to R393). -/

namespace Sys2Proof.Machine

/-! ### Jumps -/

/-- JP nn (R380). -/
def execJpNn (nn : Word) (s : State) : Result := .next ((s.jumpTo nn).charge 10 [])

/-- JP cc,nn (R381): MEMPTR takes nn whether or not the jump is taken. -/
def execJpCcNn (cond : Cond) (nn : Word) (s : State) : Result :=
  .next ((if condHolds s.cpu.f cond then s.jumpTo nn else s.setMemptr nn).charge 10 [])

/-- JR e (R382). -/
def execJr (e : Byte) (s : State) : Result := .next ((s.jumpTo (s.relativeTarget e)).charge 12 [])

/-- JR cc,e (R383). -/
def execJrCc (cond : JrCond) (e : Byte) (s : State) : Result :=
  .next (if jrCondHolds s.cpu.f cond then (s.jumpTo (s.relativeTarget e)).charge 12 [] else s.charge 7 [])

/-- JP (HL) (R384). -/
def execJpHl (s : State) : Result := .next ((s.setPc s.hl).charge 4 [])

/-- JP (XY) (R385). -/
def execJpXy (xy : IndexReg) (s : State) : Result := .next ((s.setPc (s.xy xy)).charge 4 [])

/-- DJNZ e (R386). -/
def execDjnz (e : Byte) (s : State) : Result :=
  let s1 := s.setReg .b (s.cpu.b - 1)
  .next (if s1.cpu.b ≠ 0 then (s1.jumpTo (s1.relativeTarget e)).charge 13 [] else s1.charge 8 [])

/-! ### Calls -/

/-- CALL nn (R387). -/
def execCallNn (nn : Word) (s : State) : Result := .next ((s.call nn).charge 17 s.pushAccesses)

/-- CALL cc,nn (R388): MEMPTR takes nn whether or not the call is taken. -/
def execCallCcNn (cond : Cond) (nn : Word) (s : State) : Result :=
  .next (if condHolds s.cpu.f cond then (s.call nn).charge 17 s.pushAccesses else (s.setMemptr nn).charge 10 [])

/-! ### Returns -/

/-- RET (R389). -/
def execRet (s : State) : Result := .next (s.returnToCaller.charge 10 s.popAccesses)

/-- RET cc (R390). -/
def execRetCc (cond : Cond) (s : State) : Result :=
  .next (if condHolds s.cpu.f cond then s.returnToCaller.charge 11 s.popAccesses else s.charge 5 [])

/-- RETI (R391). -/
def execReti (s : State) : Result := .next (s.returnFromInterrupt.charge 10 s.popAccesses)

/-- RETN and its duplicates (R392). -/
def execRetn (_y : BitVec 3) (s : State) : Result := .next (s.returnFromInterrupt.charge 10 s.popAccesses)

/-! ### Restarts -/

/-- The target of RST: 8 times the field (R393). -/
def restartAddress (t : BitVec 3) : Word := 0#10 ++ t ++ 0#3

/-- RST p (R393). -/
def execRst (t : BitVec 3) (s : State) : Result := .next ((s.call (restartAddress t)).charge 11 s.pushAccesses)

end Sys2Proof.Machine
end

