-- ==== Sys2Proof/Machine/Loads.lean ====
section
/-! DEFINITION. Meanings of the loads and the stack instructions (40_load_exchange.md R200 to R234). -/

namespace Sys2Proof.Machine

/-! ### 8-bit loads -/

/-- LD r,r' (R200). -/
def execLdRR (dst src : Reg8) (s : State) : Result := .next ((s.setReg dst (s.reg src)).charge 4 [])

/-- LD r,n (R201). -/
def execLdRN (r : Reg8) (n : Byte) (s : State) : Result := .next ((s.setReg r n).charge 7 [])

/-- LD r,(HL) (R202). -/
def execLdRMemHl (r : Reg8) (s : State) : Result :=
  .next ((s.setReg r (s.memRead s.hl)).charge 7 [readAt s.hl])

/-- LD r,(XY+d) (R203). -/
def execLdRMemXy (xy : IndexReg) (r : Reg8) (d : Byte) (s : State) : Result :=
  let ea := s.indexAddress xy d
  .next (((s.setMemptr ea).setReg r (s.memRead ea)).charge 15 [readAt ea])

/-- LD (HL),r' (R204). -/
def execLdMemHlR (r : Reg8) (s : State) : Result :=
  .next ((s.memWrite s.hl (s.reg r)).charge 7 [writeAt s.hl])

/-- LD (XY+d),r' (R205). -/
def execLdMemXyR (xy : IndexReg) (r : Reg8) (d : Byte) (s : State) : Result :=
  let ea := s.indexAddress xy d
  .next (((s.setMemptr ea).memWrite ea (s.reg r)).charge 15 [writeAt ea])

/-- LD (HL),n (R206). -/
def execLdMemHlN (n : Byte) (s : State) : Result := .next ((s.memWrite s.hl n).charge 10 [writeAt s.hl])

/-- LD (XY+d),n (R207). -/
def execLdMemXyN (xy : IndexReg) (d n : Byte) (s : State) : Result :=
  let ea := s.indexAddress xy d
  .next (((s.setMemptr ea).memWrite ea n).charge 15 [writeAt ea])

/-- LD A,(BC) (R208). -/
def execLdAMemBc (s : State) : Result := .next (loadAFrom s.bc 7 s)

/-- LD A,(DE) (R209). -/
def execLdAMemDe (s : State) : Result := .next (loadAFrom s.de 7 s)

/-- LD A,(nn) (R210). -/
def execLdAMemNn (nn : Word) (s : State) : Result := .next (loadAFrom nn 13 s)

/-- LD (BC),A (R211). -/
def execLdMemBcA (s : State) : Result := .next (storeATo s.bc 7 s)

/-- LD (DE),A (R212). -/
def execLdMemDeA (s : State) : Result := .next (storeATo s.de 7 s)

/-- LD (nn),A (R213). -/
def execLdMemNnA (nn : Word) (s : State) : Result := .next (storeATo nn 13 s)

/-- LD A,I (R214). -/
def execLdAI (s : State) : Result :=
  .next (((s.setA s.cpu.i).setF (loadIrF s.cpu.i s.cpu.f s.cpu.iff2)).charge 5 [])

/-- LD A,R (R215): R after the instruction's own two increments. -/
def execLdAR (s : State) : Result :=
  .next (((s.setA s.cpu.r).setF (loadIrF s.cpu.r s.cpu.f s.cpu.iff2)).charge 5 [])

/-- LD I,A (R216). -/
def execLdIA (s : State) : Result := .next ((s.setI s.cpu.a).charge 5 [])

/-- LD R,A (R217): all eight bits. -/
def execLdRA (s : State) : Result := .next ((s.setR s.cpu.a).charge 5 [])

/-- LD with XYH or XYL (R218). -/
def execLdXyRR (xy : IndexReg) (dst src : Reg8X) (s : State) : Result :=
  .next ((s.setRegX xy dst (s.regX xy src)).charge 4 [])

/-- LD XYH/XYL,n (R219). -/
def execLdXyHalfN (xy : IndexReg) (h : Half) (n : Byte) (s : State) : Result :=
  .next ((s.setXyHalf xy h n).charge 7 [])

/-! ### 16-bit loads -/

/-- LD rp,nn (R220). -/
def execLdRpNn (rp : RegPair) (nn : Word) (s : State) : Result := .next ((s.setRp rp nn).charge 10 [])

/-- LD XY,nn (R221). -/
def execLdXyNn (xy : IndexReg) (nn : Word) (s : State) : Result := .next ((s.setXy xy nn).charge 10 [])

/-- LD HL,(nn) (R223). -/
def execLdHlMemNn (nn : Word) (s : State) : Result := .next (loadedWord nn 16 (s.setHl (s.memRead16 nn)))

/-- LD rp,(nn) (R224). -/
def execLdRpMemNn (rp : RegPair) (nn : Word) (s : State) : Result :=
  .next (loadedWord nn 16 (s.setRp rp (s.memRead16 nn)))

/-- LD XY,(nn) (R225). -/
def execLdXyMemNn (xy : IndexReg) (nn : Word) (s : State) : Result :=
  .next (loadedWord nn 16 (s.setXy xy (s.memRead16 nn)))

/-- LD (nn),HL (R226). -/
def execLdMemNnHl (nn : Word) (s : State) : Result := .next (storeWord nn s.hl 16 s)

/-- LD (nn),rp (R227). -/
def execLdMemNnRp (rp : RegPair) (nn : Word) (s : State) : Result := .next (storeWord nn (s.rp rp) 16 s)

/-- LD (nn),XY (R228). -/
def execLdMemNnXy (xy : IndexReg) (nn : Word) (s : State) : Result := .next (storeWord nn (s.xy xy) 16 s)

/-- LD SP,HL (R229). -/
def execLdSpHl (s : State) : Result := .next ((s.setSp s.hl).charge 6 [])

/-- LD SP,XY (R230). -/
def execLdSpXy (xy : IndexReg) (s : State) : Result := .next ((s.setSp (s.xy xy)).charge 6 [])

/-! ### Stack -/

/-- PUSH qq (R231). -/
def execPushQq (q : StackPair) (s : State) : Result := .next ((s.push (s.stackPair q)).charge 11 s.pushAccesses)

/-- PUSH XY (R232). -/
def execPushXy (xy : IndexReg) (s : State) : Result := .next ((s.push (s.xy xy)).charge 11 s.pushAccesses)

/-- POP qq (R233). -/
def execPopQq (q : StackPair) (s : State) : Result :=
  .next ((s.popSp.setStackPair q s.popValue).charge 10 s.popAccesses)

/-- POP XY (R234). -/
def execPopXy (xy : IndexReg) (s : State) : Result := .next ((s.popSp.setXy xy s.popValue).charge 10 s.popAccesses)

end Sys2Proof.Machine
end

