-- ==== Sys2Proof/Machine/Rotate.lean ====
section
/-! DEFINITION. Meanings of the rotates and shifts (44_rotate_shift.md R330 to R345). -/

namespace Sys2Proof.Machine

/-! ### Accumulator rotates -/

/-- RLCA (R330). -/
def execRlca (s : State) : Result := .next (rotateA .rlc s)

/-- RLA (R331). -/
def execRla (s : State) : Result := .next (rotateA .rl s)

/-- RRCA (R332). -/
def execRrca (s : State) : Result := .next (rotateA .rrc s)

/-- RRA (R333). -/
def execRra (s : State) : Result := .next (rotateA .rr s)

/-! ### RLC (R335, forms of R334 and R343) -/

/-- RLC r' (R335). -/
def execRlcR (r : Reg8) (s : State) : Result := .next (modifyReg (rotOp .rlc) r 4 s)

/-- RLC (HL) (R335). -/
def execRlcMemHl (s : State) : Result := .next (modifyMem (rotOp .rlc) s.hl 11 s)

/-- RLC (XY+d) (R335). -/
def execRlcMemXy (xy : IndexReg) (d : Byte) (s : State) : Result := .next (modifyMemXy (rotOp .rlc) xy d 15 s)

/-- RLC (XY+d),r' (R343). -/
def execRlcMemXyR (xy : IndexReg) (d : Byte) (r : Reg8) (s : State) : Result :=
  .next (modifyMemXyCopy (rotOp .rlc) xy d r 15 s)

/-! ### RRC (R337, forms of R334 and R343) -/

/-- RRC r' (R337). -/
def execRrcR (r : Reg8) (s : State) : Result := .next (modifyReg (rotOp .rrc) r 4 s)

/-- RRC (HL) (R337). -/
def execRrcMemHl (s : State) : Result := .next (modifyMem (rotOp .rrc) s.hl 11 s)

/-- RRC (XY+d) (R337). -/
def execRrcMemXy (xy : IndexReg) (d : Byte) (s : State) : Result := .next (modifyMemXy (rotOp .rrc) xy d 15 s)

/-- RRC (XY+d),r' (R343). -/
def execRrcMemXyR (xy : IndexReg) (d : Byte) (r : Reg8) (s : State) : Result :=
  .next (modifyMemXyCopy (rotOp .rrc) xy d r 15 s)

/-! ### RL (R336, forms of R334 and R343) -/

/-- RL r' (R336). -/
def execRlR (r : Reg8) (s : State) : Result := .next (modifyReg (rotOp .rl) r 4 s)

/-- RL (HL) (R336). -/
def execRlMemHl (s : State) : Result := .next (modifyMem (rotOp .rl) s.hl 11 s)

/-- RL (XY+d) (R336). -/
def execRlMemXy (xy : IndexReg) (d : Byte) (s : State) : Result := .next (modifyMemXy (rotOp .rl) xy d 15 s)

/-- RL (XY+d),r' (R343). -/
def execRlMemXyR (xy : IndexReg) (d : Byte) (r : Reg8) (s : State) : Result :=
  .next (modifyMemXyCopy (rotOp .rl) xy d r 15 s)

/-! ### RR (R338, forms of R334 and R343) -/

/-- RR r' (R338). -/
def execRrR (r : Reg8) (s : State) : Result := .next (modifyReg (rotOp .rr) r 4 s)

/-- RR (HL) (R338). -/
def execRrMemHl (s : State) : Result := .next (modifyMem (rotOp .rr) s.hl 11 s)

/-- RR (XY+d) (R338). -/
def execRrMemXy (xy : IndexReg) (d : Byte) (s : State) : Result := .next (modifyMemXy (rotOp .rr) xy d 15 s)

/-- RR (XY+d),r' (R343). -/
def execRrMemXyR (xy : IndexReg) (d : Byte) (r : Reg8) (s : State) : Result :=
  .next (modifyMemXyCopy (rotOp .rr) xy d r 15 s)

/-! ### SLA (R339, forms of R334 and R343) -/

/-- SLA r' (R339). -/
def execSlaR (r : Reg8) (s : State) : Result := .next (modifyReg (rotOp .sla) r 4 s)

/-- SLA (HL) (R339). -/
def execSlaMemHl (s : State) : Result := .next (modifyMem (rotOp .sla) s.hl 11 s)

/-- SLA (XY+d) (R339). -/
def execSlaMemXy (xy : IndexReg) (d : Byte) (s : State) : Result := .next (modifyMemXy (rotOp .sla) xy d 15 s)

/-- SLA (XY+d),r' (R343). -/
def execSlaMemXyR (xy : IndexReg) (d : Byte) (r : Reg8) (s : State) : Result :=
  .next (modifyMemXyCopy (rotOp .sla) xy d r 15 s)

/-! ### SRA (R340, forms of R334 and R343) -/

/-- SRA r' (R340). -/
def execSraR (r : Reg8) (s : State) : Result := .next (modifyReg (rotOp .sra) r 4 s)

/-- SRA (HL) (R340). -/
def execSraMemHl (s : State) : Result := .next (modifyMem (rotOp .sra) s.hl 11 s)

/-- SRA (XY+d) (R340). -/
def execSraMemXy (xy : IndexReg) (d : Byte) (s : State) : Result := .next (modifyMemXy (rotOp .sra) xy d 15 s)

/-- SRA (XY+d),r' (R343). -/
def execSraMemXyR (xy : IndexReg) (d : Byte) (r : Reg8) (s : State) : Result :=
  .next (modifyMemXyCopy (rotOp .sra) xy d r 15 s)

/-! ### SLL (R341, forms of R334 and R343) -/

/-- SLL r' (R341). -/
def execSllR (r : Reg8) (s : State) : Result := .next (modifyReg (rotOp .sll) r 4 s)

/-- SLL (HL) (R341). -/
def execSllMemHl (s : State) : Result := .next (modifyMem (rotOp .sll) s.hl 11 s)

/-- SLL (XY+d) (R341). -/
def execSllMemXy (xy : IndexReg) (d : Byte) (s : State) : Result := .next (modifyMemXy (rotOp .sll) xy d 15 s)

/-- SLL (XY+d),r' (R343). -/
def execSllMemXyR (xy : IndexReg) (d : Byte) (r : Reg8) (s : State) : Result :=
  .next (modifyMemXyCopy (rotOp .sll) xy d r 15 s)

/-! ### SRL (R342, forms of R334 and R343) -/

/-- SRL r' (R342). -/
def execSrlR (r : Reg8) (s : State) : Result := .next (modifyReg (rotOp .srl) r 4 s)

/-- SRL (HL) (R342). -/
def execSrlMemHl (s : State) : Result := .next (modifyMem (rotOp .srl) s.hl 11 s)

/-- SRL (XY+d) (R342). -/
def execSrlMemXy (xy : IndexReg) (d : Byte) (s : State) : Result := .next (modifyMemXy (rotOp .srl) xy d 15 s)

/-- SRL (XY+d),r' (R343). -/
def execSrlMemXyR (xy : IndexReg) (d : Byte) (r : Reg8) (s : State) : Result :=
  .next (modifyMemXyCopy (rotOp .srl) xy d r 15 s)

/-! ### Decimal digit rotates -/

/-- A digit rotate: the byte at HL and the low digit of A take new values; MEMPTR is HL + 1 (R344, R345). -/
def digitRotate (newMem newA : Byte) (s : State) : State :=
  (((s.memWrite s.hl newMem).setA newA).setMemptr (s.hl + 1)).setF (digitF newA s.cpu.f) |>.charge 14
    [readAt s.hl, writeAt s.hl]

/-- RLD (R344). -/
def execRld (s : State) : Result :=
  let t := s.memRead s.hl
  .next (digitRotate (t.extractLsb' 0 4 ++ s.cpu.a.extractLsb' 0 4) (s.cpu.a.extractLsb' 4 4 ++ t.extractLsb' 4 4) s)

/-- RRD (R345). -/
def execRrd (s : State) : Result :=
  let t := s.memRead s.hl
  .next (digitRotate (s.cpu.a.extractLsb' 0 4 ++ t.extractLsb' 4 4) (s.cpu.a.extractLsb' 4 4 ++ t.extractLsb' 0 4) s)

end Sys2Proof.Machine
end

