-- ==== Sys2Proof/Machine/PrefixForms.lean ====
section
/-! DEFINITION. Meanings of the prefix bytes, each a CPU step of 4 tacts (30_encoding.md R113, R114), and of an unprefixed
instruction behind an index prefix that leaves it as it is (R126). -/

namespace Sys2Proof.Machine

/-- A prefix step: the prefix-mode state is written, 4 tacts (R113). -/
def prefixStep (p : Pfx) (s : State) : State := (s.setPfx p).charge 4 []

/-- The prefix CB (R113). -/
def execPrefixCb (s : State) : Result := .next (prefixStep .cb s)

/-- The prefix DD (R113). -/
def execPrefixDd (s : State) : Result := .next (prefixStep .dd s)

/-- The prefix ED (R113). -/
def execPrefixEd (s : State) : Result := .next (prefixStep .ed s)

/-- The prefix FD (R113). -/
def execPrefixFd (s : State) : Result := .next (prefixStep .fd s)

/-- The prefix CB after DD or FD (R113, R114). -/
def execPrefixXyCb (xy : IndexReg) (s : State) : Result :=
  .next (prefixStep (match xy with | .ix => .ddcb | .iy => .fdcb) s)

/-- The prefix DD after an index prefix, which it replaces (R114). -/
def execPrefixDdReplaces (_xy : IndexReg) (s : State) : Result := .next (prefixStep .dd s)

/-- The prefix ED after an index prefix, which it replaces (R114). -/
def execPrefixEdReplaces (_xy : IndexReg) (s : State) : Result := .next (prefixStep .ed s)

/-- The prefix FD after an index prefix, which it replaces (R114). -/
def execPrefixFdReplaces (_xy : IndexReg) (s : State) : Result := .next (prefixStep .fd s)

/-- The meaning of an unprefixed instruction that an index prefix can leave as it is (R126); every other term is
refused. -/
def execUnprefixed (i : Instr) (s : State) : Result :=
  match i with
  | .nop => execNop s
  | .ldRpNn rp nn => execLdRpNn rp nn s
  | .ldMemBcA => execLdMemBcA s
  | .ldMemDeA => execLdMemDeA s
  | .ldMemNnA nn => execLdMemNnA nn s
  | .incRp rp => execIncRp rp s
  | .decRp rp => execDecRp rp s
  | .incR r => execIncR r s
  | .decR r => execDecR r s
  | .ldRN r n => execLdRN r n s
  | .rlca => execRlca s
  | .rrca => execRrca s
  | .rla => execRla s
  | .rra => execRra s
  | .daa => execDaa s
  | .cpl => execCpl s
  | .scf => execScf s
  | .ccf => execCcf s
  | .exAfAf => execExAfAf s
  | .ldAMemBc => execLdAMemBc s
  | .ldAMemDe => execLdAMemDe s
  | .ldAMemNn nn => execLdAMemNn nn s
  | .djnz e => execDjnz e s
  | .jr e => execJr e s
  | .jrCc cond e => execJrCc cond e s
  | .ldRR dst src => execLdRR dst src s
  | .halt => execHalt s
  | .addAR r => execAddAR r s
  | .addAN n => execAddAN n s
  | .adcAR r => execAdcAR r s
  | .adcAN n => execAdcAN n s
  | .subR r => execSubR r s
  | .subN n => execSubN n s
  | .sbcAR r => execSbcAR r s
  | .sbcAN n => execSbcAN n s
  | .andR r => execAndR r s
  | .andN n => execAndN n s
  | .xorR r => execXorR r s
  | .xorN n => execXorN n s
  | .orR r => execOrR r s
  | .orN n => execOrN n s
  | .cpR r => execCpR r s
  | .cpN n => execCpN n s
  | .retCc cond => execRetCc cond s
  | .popQq q => execPopQq q s
  | .ret => execRet s
  | .exx => execExx s
  | .jpCcNn cond nn => execJpCcNn cond nn s
  | .jpNn nn => execJpNn nn s
  | .outNA n => execOutNA n s
  | .inAN n => execInAN n s
  | .exDeHl => execExDeHl s
  | .di => execDi s
  | .ei => execEi s
  | .callCcNn cond nn => execCallCcNn cond nn s
  | .pushQq q => execPushQq q s
  | .callNn nn => execCallNn nn s
  | .rst t => execRst t s
  | _ => .refused .illFormedInstruction

/-- An opcode that is not indexable, behind a DD or FD prefix: it executes exactly as the unprefixed opcode (R126); the
prefix has cost its own step. -/
def execPrefixIgnored (_xy : IndexReg) (i : Instr) (s : State) : Result :=
  if i.ignoresPrefix then execUnprefixed i s else .refused .illFormedInstruction

end Sys2Proof.Machine
end

