-- ==== Sys2Proof/Machine/Dispatch.lean ====
section
/-! DEFINITION. The meaning of every instruction: one arm per constructor of Instr, one direct call each. -/

namespace Sys2Proof.Machine

/-- Execute one instruction whose bytes have been fetched (30_encoding.md R113). -/
def exec (i : Instr) (s : State) : Host.Outcome State Fault Refusal :=
  match i with
  | .nop => Sys2Proof.Machine.execNop s
  | .ldRpNn rp nn => Sys2Proof.Machine.execLdRpNn rp nn s
  | .ldMemBcA => Sys2Proof.Machine.execLdMemBcA s
  | .ldMemDeA => Sys2Proof.Machine.execLdMemDeA s
  | .ldMemNnHl nn => Sys2Proof.Machine.execLdMemNnHl nn s
  | .ldMemNnA nn => Sys2Proof.Machine.execLdMemNnA nn s
  | .incRp rp => Sys2Proof.Machine.execIncRp rp s
  | .decRp rp => Sys2Proof.Machine.execDecRp rp s
  | .incR r => Sys2Proof.Machine.execIncR r s
  | .incMemHl => Sys2Proof.Machine.execIncMemHl s
  | .decR r => Sys2Proof.Machine.execDecR r s
  | .decMemHl => Sys2Proof.Machine.execDecMemHl s
  | .ldRN r n => Sys2Proof.Machine.execLdRN r n s
  | .ldMemHlN n => Sys2Proof.Machine.execLdMemHlN n s
  | .rlca => Sys2Proof.Machine.execRlca s
  | .rrca => Sys2Proof.Machine.execRrca s
  | .rla => Sys2Proof.Machine.execRla s
  | .rra => Sys2Proof.Machine.execRra s
  | .daa => Sys2Proof.Machine.execDaa s
  | .cpl => Sys2Proof.Machine.execCpl s
  | .scf => Sys2Proof.Machine.execScf s
  | .ccf => Sys2Proof.Machine.execCcf s
  | .exAfAf => Sys2Proof.Machine.execExAfAf s
  | .addHlRp rp => Sys2Proof.Machine.execAddHlRp rp s
  | .ldAMemBc => Sys2Proof.Machine.execLdAMemBc s
  | .ldAMemDe => Sys2Proof.Machine.execLdAMemDe s
  | .ldHlMemNn nn => Sys2Proof.Machine.execLdHlMemNn nn s
  | .ldAMemNn nn => Sys2Proof.Machine.execLdAMemNn nn s
  | .djnz e => Sys2Proof.Machine.execDjnz e s
  | .jr e => Sys2Proof.Machine.execJr e s
  | .jrCc cond e => Sys2Proof.Machine.execJrCc cond e s
  | .ldRR dst src => Sys2Proof.Machine.execLdRR dst src s
  | .ldRMemHl r => Sys2Proof.Machine.execLdRMemHl r s
  | .ldMemHlR r => Sys2Proof.Machine.execLdMemHlR r s
  | .halt => Sys2Proof.Machine.execHalt s
  | .addAR r => Sys2Proof.Machine.execAddAR r s
  | .addAMemHl => Sys2Proof.Machine.execAddAMemHl s
  | .addAN n => Sys2Proof.Machine.execAddAN n s
  | .adcAR r => Sys2Proof.Machine.execAdcAR r s
  | .adcAMemHl => Sys2Proof.Machine.execAdcAMemHl s
  | .adcAN n => Sys2Proof.Machine.execAdcAN n s
  | .subR r => Sys2Proof.Machine.execSubR r s
  | .subMemHl => Sys2Proof.Machine.execSubMemHl s
  | .subN n => Sys2Proof.Machine.execSubN n s
  | .sbcAR r => Sys2Proof.Machine.execSbcAR r s
  | .sbcAMemHl => Sys2Proof.Machine.execSbcAMemHl s
  | .sbcAN n => Sys2Proof.Machine.execSbcAN n s
  | .andR r => Sys2Proof.Machine.execAndR r s
  | .andMemHl => Sys2Proof.Machine.execAndMemHl s
  | .andN n => Sys2Proof.Machine.execAndN n s
  | .xorR r => Sys2Proof.Machine.execXorR r s
  | .xorMemHl => Sys2Proof.Machine.execXorMemHl s
  | .xorN n => Sys2Proof.Machine.execXorN n s
  | .orR r => Sys2Proof.Machine.execOrR r s
  | .orMemHl => Sys2Proof.Machine.execOrMemHl s
  | .orN n => Sys2Proof.Machine.execOrN n s
  | .cpR r => Sys2Proof.Machine.execCpR r s
  | .cpMemHl => Sys2Proof.Machine.execCpMemHl s
  | .cpN n => Sys2Proof.Machine.execCpN n s
  | .retCc cond => Sys2Proof.Machine.execRetCc cond s
  | .popQq q => Sys2Proof.Machine.execPopQq q s
  | .ret => Sys2Proof.Machine.execRet s
  | .exx => Sys2Proof.Machine.execExx s
  | .jpHl => Sys2Proof.Machine.execJpHl s
  | .ldSpHl => Sys2Proof.Machine.execLdSpHl s
  | .jpCcNn cond nn => Sys2Proof.Machine.execJpCcNn cond nn s
  | .jpNn nn => Sys2Proof.Machine.execJpNn nn s
  | .prefixCb => Sys2Proof.Machine.execPrefixCb s
  | .outNA n => Sys2Proof.Machine.execOutNA n s
  | .inAN n => Sys2Proof.Machine.execInAN n s
  | .exMemSpHl => Sys2Proof.Machine.execExMemSpHl s
  | .exDeHl => Sys2Proof.Machine.execExDeHl s
  | .di => Sys2Proof.Machine.execDi s
  | .ei => Sys2Proof.Machine.execEi s
  | .callCcNn cond nn => Sys2Proof.Machine.execCallCcNn cond nn s
  | .pushQq q => Sys2Proof.Machine.execPushQq q s
  | .callNn nn => Sys2Proof.Machine.execCallNn nn s
  | .prefixDd => Sys2Proof.Machine.execPrefixDd s
  | .prefixEd => Sys2Proof.Machine.execPrefixEd s
  | .prefixFd => Sys2Proof.Machine.execPrefixFd s
  | .rst t => Sys2Proof.Machine.execRst t s
  | .rlcR r => Sys2Proof.Machine.execRlcR r s
  | .rlcMemHl => Sys2Proof.Machine.execRlcMemHl s
  | .rrcR r => Sys2Proof.Machine.execRrcR r s
  | .rrcMemHl => Sys2Proof.Machine.execRrcMemHl s
  | .rlR r => Sys2Proof.Machine.execRlR r s
  | .rlMemHl => Sys2Proof.Machine.execRlMemHl s
  | .rrR r => Sys2Proof.Machine.execRrR r s
  | .rrMemHl => Sys2Proof.Machine.execRrMemHl s
  | .slaR r => Sys2Proof.Machine.execSlaR r s
  | .slaMemHl => Sys2Proof.Machine.execSlaMemHl s
  | .sraR r => Sys2Proof.Machine.execSraR r s
  | .sraMemHl => Sys2Proof.Machine.execSraMemHl s
  | .sllR r => Sys2Proof.Machine.execSllR r s
  | .sllMemHl => Sys2Proof.Machine.execSllMemHl s
  | .srlR r => Sys2Proof.Machine.execSrlR r s
  | .srlMemHl => Sys2Proof.Machine.execSrlMemHl s
  | .bitR b r => Sys2Proof.Machine.execBitR b r s
  | .bitMemHl b => Sys2Proof.Machine.execBitMemHl b s
  | .resR b r => Sys2Proof.Machine.execResR b r s
  | .resMemHl b => Sys2Proof.Machine.execResMemHl b s
  | .setR b r => Sys2Proof.Machine.execSetR b r s
  | .setMemHl b => Sys2Proof.Machine.execSetMemHl b s
  | .inRC r => Sys2Proof.Machine.execInRC r s
  | .inC => Sys2Proof.Machine.execInC s
  | .outCR r => Sys2Proof.Machine.execOutCR r s
  | .outC0 => Sys2Proof.Machine.execOutC0 s
  | .sbcHlRp rp => Sys2Proof.Machine.execSbcHlRp rp s
  | .adcHlRp rp => Sys2Proof.Machine.execAdcHlRp rp s
  | .ldMemNnRp rp nn => Sys2Proof.Machine.execLdMemNnRp rp nn s
  | .ldRpMemNn rp nn => Sys2Proof.Machine.execLdRpMemNn rp nn s
  | .neg y => Sys2Proof.Machine.execNeg y s
  | .retn y => Sys2Proof.Machine.execRetn y s
  | .reti => Sys2Proof.Machine.execReti s
  | .im0 y => Sys2Proof.Machine.execIm0 y s
  | .im0Undoc y => Sys2Proof.Machine.execIm0Undoc y s
  | .im1 y => Sys2Proof.Machine.execIm1 y s
  | .im2 y => Sys2Proof.Machine.execIm2 y s
  | .ldIA => Sys2Proof.Machine.execLdIA s
  | .ldRA => Sys2Proof.Machine.execLdRA s
  | .ldAI => Sys2Proof.Machine.execLdAI s
  | .ldAR => Sys2Proof.Machine.execLdAR s
  | .rrd => Sys2Proof.Machine.execRrd s
  | .rld => Sys2Proof.Machine.execRld s
  | .nopEd7 y => Sys2Proof.Machine.execNopEd7 y s
  | .ldi => Sys2Proof.Machine.execLdi s
  | .ldd => Sys2Proof.Machine.execLdd s
  | .ldir => Sys2Proof.Machine.execLdir s
  | .lddr => Sys2Proof.Machine.execLddr s
  | .cpi => Sys2Proof.Machine.execCpi s
  | .cpd => Sys2Proof.Machine.execCpd s
  | .cpir => Sys2Proof.Machine.execCpir s
  | .cpdr => Sys2Proof.Machine.execCpdr s
  | .ini => Sys2Proof.Machine.execIni s
  | .ind => Sys2Proof.Machine.execInd s
  | .inir => Sys2Proof.Machine.execInir s
  | .indr => Sys2Proof.Machine.execIndr s
  | .outi => Sys2Proof.Machine.execOuti s
  | .outd => Sys2Proof.Machine.execOutd s
  | .otir => Sys2Proof.Machine.execOtir s
  | .otdr => Sys2Proof.Machine.execOtdr s
  | .nopEd0 o => Sys2Proof.Machine.execNopEd0 o s
  | .nopEd3 o => Sys2Proof.Machine.execNopEd3 o s
  | .nopEd2 o => Sys2Proof.Machine.execNopEd2 o s
  | .addXyRp xy rp => Sys2Proof.Machine.execAddXyRp xy rp s
  | .ldXyNn xy nn => Sys2Proof.Machine.execLdXyNn xy nn s
  | .ldMemNnXy xy nn => Sys2Proof.Machine.execLdMemNnXy xy nn s
  | .ldXyMemNn xy nn => Sys2Proof.Machine.execLdXyMemNn xy nn s
  | .incXy xy => Sys2Proof.Machine.execIncXy xy s
  | .decXy xy => Sys2Proof.Machine.execDecXy xy s
  | .incXyHalf xy h => Sys2Proof.Machine.execIncXyHalf xy h s
  | .decXyHalf xy h => Sys2Proof.Machine.execDecXyHalf xy h s
  | .ldXyHalfN xy h n => Sys2Proof.Machine.execLdXyHalfN xy h n s
  | .incMemXy xy d => Sys2Proof.Machine.execIncMemXy xy d s
  | .decMemXy xy d => Sys2Proof.Machine.execDecMemXy xy d s
  | .ldMemXyN xy d n => Sys2Proof.Machine.execLdMemXyN xy d n s
  | .ldRMemXy xy r d => Sys2Proof.Machine.execLdRMemXy xy r d s
  | .ldMemXyR xy r d => Sys2Proof.Machine.execLdMemXyR xy r d s
  | .ldXyRR xy dst src => Sys2Proof.Machine.execLdXyRR xy dst src s
  | .addAXyHalf xy h => Sys2Proof.Machine.execAddAXyHalf xy h s
  | .addAMemXy xy d => Sys2Proof.Machine.execAddAMemXy xy d s
  | .adcAXyHalf xy h => Sys2Proof.Machine.execAdcAXyHalf xy h s
  | .adcAMemXy xy d => Sys2Proof.Machine.execAdcAMemXy xy d s
  | .subXyHalf xy h => Sys2Proof.Machine.execSubXyHalf xy h s
  | .subMemXy xy d => Sys2Proof.Machine.execSubMemXy xy d s
  | .sbcAXyHalf xy h => Sys2Proof.Machine.execSbcAXyHalf xy h s
  | .sbcAMemXy xy d => Sys2Proof.Machine.execSbcAMemXy xy d s
  | .andXyHalf xy h => Sys2Proof.Machine.execAndXyHalf xy h s
  | .andMemXy xy d => Sys2Proof.Machine.execAndMemXy xy d s
  | .xorXyHalf xy h => Sys2Proof.Machine.execXorXyHalf xy h s
  | .xorMemXy xy d => Sys2Proof.Machine.execXorMemXy xy d s
  | .orXyHalf xy h => Sys2Proof.Machine.execOrXyHalf xy h s
  | .orMemXy xy d => Sys2Proof.Machine.execOrMemXy xy d s
  | .cpXyHalf xy h => Sys2Proof.Machine.execCpXyHalf xy h s
  | .cpMemXy xy d => Sys2Proof.Machine.execCpMemXy xy d s
  | .popXy xy => Sys2Proof.Machine.execPopXy xy s
  | .exMemSpXy xy => Sys2Proof.Machine.execExMemSpXy xy s
  | .pushXy xy => Sys2Proof.Machine.execPushXy xy s
  | .jpXy xy => Sys2Proof.Machine.execJpXy xy s
  | .ldSpXy xy => Sys2Proof.Machine.execLdSpXy xy s
  | .prefixXyCb xy => Sys2Proof.Machine.execPrefixXyCb xy s
  | .prefixDdReplaces xy => Sys2Proof.Machine.execPrefixDdReplaces xy s
  | .prefixEdReplaces xy => Sys2Proof.Machine.execPrefixEdReplaces xy s
  | .prefixFdReplaces xy => Sys2Proof.Machine.execPrefixFdReplaces xy s
  | .prefixIgnored xy behind => Sys2Proof.Machine.execPrefixIgnored xy behind s
  | .rlcMemXy xy d => Sys2Proof.Machine.execRlcMemXy xy d s
  | .rlcMemXyR xy d r => Sys2Proof.Machine.execRlcMemXyR xy d r s
  | .rrcMemXy xy d => Sys2Proof.Machine.execRrcMemXy xy d s
  | .rrcMemXyR xy d r => Sys2Proof.Machine.execRrcMemXyR xy d r s
  | .rlMemXy xy d => Sys2Proof.Machine.execRlMemXy xy d s
  | .rlMemXyR xy d r => Sys2Proof.Machine.execRlMemXyR xy d r s
  | .rrMemXy xy d => Sys2Proof.Machine.execRrMemXy xy d s
  | .rrMemXyR xy d r => Sys2Proof.Machine.execRrMemXyR xy d r s
  | .slaMemXy xy d => Sys2Proof.Machine.execSlaMemXy xy d s
  | .slaMemXyR xy d r => Sys2Proof.Machine.execSlaMemXyR xy d r s
  | .sraMemXy xy d => Sys2Proof.Machine.execSraMemXy xy d s
  | .sraMemXyR xy d r => Sys2Proof.Machine.execSraMemXyR xy d r s
  | .sllMemXy xy d => Sys2Proof.Machine.execSllMemXy xy d s
  | .sllMemXyR xy d r => Sys2Proof.Machine.execSllMemXyR xy d r s
  | .srlMemXy xy d => Sys2Proof.Machine.execSrlMemXy xy d s
  | .srlMemXyR xy d r => Sys2Proof.Machine.execSrlMemXyR xy d r s
  | .bitMemXy xy d b => Sys2Proof.Machine.execBitMemXy xy d b s
  | .bitMemXyDup xy d b r => Sys2Proof.Machine.execBitMemXyDup xy d b r s
  | .resMemXy xy d b => Sys2Proof.Machine.execResMemXy xy d b s
  | .resMemXyR xy d b r => Sys2Proof.Machine.execResMemXyR xy d b r s
  | .setMemXy xy d b => Sys2Proof.Machine.execSetMemXy xy d b s
  | .setMemXyR xy d b r => Sys2Proof.Machine.execSetMemXyR xy d b r s

end Sys2Proof.Machine
end

