-- ==== Sys2Proof/Machine/Fetch.lean ====
section
/-! DEFINITION. Fetching an instruction's bytes (30_encoding.md R112, R113) and placing an instruction where the machine
fetches. One fetch reads every byte of the CPU step before the step has any other effect (notes/assumptions/11.md). -/

namespace Sys2Proof.Machine

/-- The bytes a CPU step can fetch: at most three, from PC on, mod 2^16 (R110: the longest instruction has four bytes,
the first of them a prefix with a step of its own). -/
def State.fetchWindow (s : State) : List Byte :=
  [s.memRead s.cpu.pc, s.memRead (s.cpu.pc + 1), s.memRead (s.cpu.pc + 2)]

/-- The accesses of the first `n` fetches. -/
def State.fetchAccesses (s : State) (n : Nat) : List Access :=
  [readAt s.cpu.pc, readAt (s.cpu.pc + 1), readAt (s.cpu.pc + 2)].take n

/-- The next opcode byte is an M1 fetch: it is, but after DD CB and FD CB (R39, R113). -/
def countsM1 : Pfx → Bool
  | .ddcb => false
  | .fdcb => false
  | _ => true

/-- The state after the fetch of a step's `n` bytes: PC past them, R counted for an M1 fetch, no prefix pending (R113). -/
def State.afterFetch (s : State) (n : Nat) : State :=
  let s1 := (s.setPc (s.cpu.pc + BitVec.ofNat 16 n)).setPfx .none
  (if countsM1 s.cpu.pfx then s1.bumpR else s1).charge 0 (s.fetchAccesses n)

/-- Decode what stands at PC, and fetch it (R113, R566). -/
def State.fetch (s : State) : Host.Outcome (Instr × State) Fault Refusal :=
  match decode s.cpu.pfx s.fetchWindow with
  | .ok (i, rest) => .next (i, s.afterFetch (3 - rest.length))
  | .error _ => .refused .unmappedOpcode

/-! ### Placing an instruction (notes/assumptions/9.md) -/

/-- How many of the bytes are prefix steps before the last step, and the prefix-mode state they leave. -/
def leadingPrefixes : Nat → Pfx → List Byte → Nat × Pfx
  | 0, p, _ => (0, p)
  | fuel + 1, p, bytes =>
    match decode p bytes with
    | .ok (i, b :: rest) =>
      match i.prefixAfter with
      | some p' => ((leadingPrefixes fuel p' (b :: rest)).1 + 1, (leadingPrefixes fuel p' (b :: rest)).2)
      | none => (0, p)
    | _ => (0, p)

/-- Memory with the bytes at `a` and after it, mod 2^16, ROM or not: the host's placement, no CPU write. -/
def Memory.place (m : Memory) (a : Word) : List Byte → Memory
  | [] => m
  | b :: rest => Memory.place (m.store a.toNat b) (a + 1) rest

/-- The state with an instruction's bytes at PC, the steps of its leading prefix bytes done as far as the fetch needs it:
PC past them and the prefix-mode state they leave. The CPU is not halted, no NMI is pending, and a maskable interrupt
that could be accepted is blocked for one sampling point, so that the very next step runs the instruction. -/
def State.placeInstruction (s : State) (bytes : List Byte) : State :=
  let lead := leadingPrefixes bytes.length .none bytes
  let s1 : State := { s with mem := s.mem.place s.cpu.pc ((bytes ++ [0, 0, 0]).take (max 4 bytes.length)) }
  let s2 := (s1.setPc (s.cpu.pc + BitVec.ofNat 16 lead.1)).setPfx lead.2
  ((s2.setHalted false).setNmiPending false).setEiBlock (s.cpu.eiBlock || (s.cpu.iff1 && s.intLine))

end Sys2Proof.Machine
end

