-- ==== Sys2Proof/Machine/Cycle.lean ====
section
/-! DEFINITION. One CPU step with its device work: the sampling point, the fetch and the execution (30_encoding.md R113;
60_exceptions.md R551 to R554), then the ULA (48_ula.md R445). -/

namespace Sys2Proof.Machine

/-- Fetch and execute what stands at PC (R113). -/
def fetchAndExecute (s : State) : Result := andThen s.fetch fun x => exec x.1 x.2

/-- A step that accepts no interrupt: a halted cycle or an instruction (R554, R561). -/
def runStep (s : State) : Result := if s.cpu.halted then .next (haltedCycle s) else fetchAndExecute s

/-- The sampling point (R551 to R554): NMI first, then an enabled, unblocked INT, else the step. -/
def sampleAndRun (s : State) : Result :=
  let s1 := s.setEiBlock false
  if s1.cpu.nmiPending then .next (acceptNmi s1)
  else if s1.cpu.iff1 && !s.cpu.eiBlock && s1.intLine then .next (acceptInt s1)
  else runStep s1

/-- The CPU's part of a step: the sampling point only at an instruction boundary (R113, R551). -/
def cpuStep (s : State) : Result := if s.cpu.pfx = .none then sampleAndRun s else runStep s

/-- A CPU step and the ULA's work after it (R445, R608). -/
def cycle (s : State) : Result := andThen (cpuStep s) State.finishStep

end Sys2Proof.Machine
end

