-- ==== Sys2Proof/Machine/Step.lean ====
section
/-! DEFINITION. The step function, and the placement of an instruction for the host. -/

namespace Sys2Proof.Machine

/-- One CPU step of 30_encoding.md R113 with its device work. -/
def step (s : State) : Host.Outcome State Fault Refusal := cycle s

/-- The state with a word of spec/opcode_table.json placed where the next step fetches (notes/assumptions/9.md). -/
def State.withFetchWord (s : State) (nbits w : Nat) : State := s.placeInstruction (tableBytes (nbits / 8) w)

end Sys2Proof.Machine
end

