-- ==== Sys2Proof/Machine/HostActions.lean ====
section
/-! DEFINITION. What the host can do to the machine between two CPU steps (60_exceptions.md R571): construction, reset, the
NMI request, the keyboard, loading and starting a tape; and what it may read. -/

namespace Sys2Proof.Machine

/-! ### Construction (70_reset_and_hazards.md R604) -/

/-- A configuration of the 48K machine: how many ROM pages and RAM banks are installed, which of them the map shows, and
the image of the ROM page shown. -/
structure Configuration where
  installedRomPages : Nat
  installedRamBanks : Nat
  romPage : Nat
  ramBanks : List Nat
  romImage : Option (List Byte)
  deriving DecidableEq, Repr

/-- The length of a ROM image of the 48K (R86, R604). -/
def romLength : Nat := 16384

/-- The first RAM bank index outside the installed banks. -/
def firstBadBank (installed : Nat) : List Nat → Option Nat
  | [] => none
  | k :: rest => if k < installed then firstBadBank installed rest else some k

/-- The configuration error of a configuration, in the order R604 lists them; `none` for one that can be built. -/
def Configuration.error (c : Configuration) : Option ConfigurationError :=
  if c.installedRomPages ≤ c.romPage then some (.bankIndexOutOfRange c.romPage)
  else
    match firstBadBank c.installedRamBanks c.ramBanks, c.romImage with
    | some k, _ => some (.bankIndexOutOfRange k)
    | none, none => some .missingRomImage
    | none, some image => if image.length = romLength then none else some (.wrongRomLength image.length)

/-- Build the machine (R604): in the reset state, with the ROM image at 0x0000-0x3FFF; or no machine. -/
def construct (c : Configuration) : Result :=
  match c.error with
  | some e => .fault (.configuration e)
  | none => .next { State.reset with mem := Memory.place [] 0 (c.romImage.getD []) }

/-! ### Actions between two steps (R571) -/

/-- `Reset()` (R600, R602): CPU and ULA take their values of R50, those the spec leaves a draw from `draw`; memory is
unchanged; the block list is kept and the player stops. DESIGN CHOICE: the stopped player's other fields keep what they
held, which R602 leaves open (notes/assumptions/20.md). -/
def hostReset (draw : State) (s : State) : State :=
  { s with
    cpu := { draw.cpu with
      pc := 0, i := 0, r := 0, iff1 := false, iff2 := false, im := .im0, halted := false, pfx := .none, memptr := 0
      eiBlock := false, nmiPending := false, tacts := 0 }
    ula := { draw.ula with
      frameStart := 0, frameCount := 0, overflow := 0, lastRenderedTact := -1, flashPhase := false }
    tape := { s.tape with playing := false } }

/-- `RequestNMI()` (R559). -/
def requestNmi (s : State) : State := s.setNmiPending true

/-- The keys the host's keyboard provider reports from now on (48_ula.md R458). -/
def setKeyboard (k : Keyboard) (s : State) : State := { s with env := { s.env with keyboard := k } }

/-- Load a tape (49_tzx.md R492): the answer, and the state. A file that fails leaves the tape unloaded (R565); a new tape
does not play until `InitPlay` (notes/assumptions/13.md). -/
def loadTape (file : List Byte) (s : State) : Host.Outcome (List TzxBlock) Fault Refusal × State :=
  match readContent file with
  | .ok blocks => (.next blocks, { s with tape := { Tape.empty with loaded := true, blocks := blocks } })
  | .error e => (.fault (.tapeFormat e), { s with tape := Tape.empty })

/-- Start the tape: `InitPlay(t)` at the current tact (49_tzx.md R513). -/
def startTape (s : State) : Result := andThen (s.tape.initPlay s.cpu.tacts) fun p => .next { s with tape := p }

/-- The host's actions between two steps. -/
inductive HostAction where
  | reset (draw : State)
  | requestNmi
  | setKeyboard (k : Keyboard)
  | loadTape (file : List Byte)
  | startTape

/-- The state a host action leaves; `startTape` can be refused (R510), no other action stops the machine. -/
def hostAct : HostAction → State → Result
  | .reset draw, s => .next (hostReset draw s)
  | .requestNmi, s => .next (requestNmi s)
  | .setKeyboard k, s => .next (setKeyboard k s)
  | .loadTape file, s => .next (loadTape file s).2
  | .startTape, s => startTape s

/-! ### What the host reads (48_ula.md R460; R570, R613) -/

/-- The colour the frame buffer holds at (row, column). -/
def State.framePixel (s : State) (row col : Nat) : Colour := s.ula.buffer.read row col

end Sys2Proof.Machine
end

