-- ==== Sys2Proof/Safety.lean ====
section
/-! DEFINITION. The terms of the claims: what a run's end is, the machine's invariant, and how a step may change memory,
flags and devices. -/

namespace Sys2Proof.Machine

/-- The end of a run, event (a) of 60_exceptions.md R574: an instruction boundary after a step that set `halted`. -/
def Safety.runEnded (before after : State) : Bool :=
  !before.cpu.halted && after.cpu.halted && decide (after.cpu.pfx = .none)

/-! ### The invariant of the machine between two steps -/

/-- Memory and the pixel buffer are in canonical form. -/
def State.canonical (s : State) : Prop := s.mem.wf = true ∧ s.ula.buffer.wf = true

/-- The ULA's time (48_ula.md R442, R443, R447, R453): the frame began at a multiple of `FrameTacts` and holds the tact
counter, the flash phase is that of the frame count, nothing beyond the current tact has been painted. -/
def State.ulaTimed (s : State) : Prop :=
  s.ula.frameStart = s.ula.frameCount * frameTacts ∧ s.ula.frameStart ≤ s.cpu.tacts ∧
    s.cpu.tacts < s.ula.frameStart + frameTacts ∧ s.ula.flashPhase = flashPhaseAfter s.ula.frameCount ∧
    -1 ≤ s.ula.lastRenderedTact ∧ s.ula.lastRenderedTact ≤ (s.frameTact : Int)

/-- The tape player's time (49_tzx.md R511, R521, R522): a playing player has been asked nothing beyond the current tact,
and holds a playable block that began at or before the last query, unless it is completed. -/
def State.tapeTimed (s : State) : Prop :=
  s.tape.playing = true →
    s.tape.lastQueryTact ≤ s.cpu.tacts ∧
      (s.tape.playPhase ≠ .completed →
        ∃ b, s.tape.currentBlock = some b ∧ b.playback = .playable ∧ b.usedBitsOk = true ∧
          s.tape.blockStart ≤ s.tape.lastQueryTact)

/-- The CPU's control state (10_state.md R40, R42, R43, R45): interrupts enabled means both flip-flops are set; a halted
CPU has no prefix pending; the EI block stands only at the instruction boundary after an EI. -/
def State.controlled (s : State) : Prop :=
  (s.cpu.iff1 = true → s.cpu.iff2 = true) ∧ (s.cpu.halted = true → s.cpu.pfx = .none) ∧
    (s.cpu.eiBlock = true → s.cpu.iff1 = true ∧ s.cpu.pfx = .none ∧ s.cpu.halted = false)

/-- The machine's invariant. -/
def State.Inv (s : State) : Prop := s.canonical ∧ s.ulaTimed ∧ s.tapeTimed ∧ s.controlled

/-! ### Frames -/

/-- ULA, tape, open parameters and host inputs are as they were. -/
def SameDevices (s t : State) : Prop := t.ula = s.ula ∧ t.tape = s.tape ∧ t.env = s.env

/-- Every byte of memory reads as it did. -/
def SameMemory (s t : State) : Prop := ∀ a, t.mem.read a = s.mem.read a

/-- Memory after a write of `v` at `a`: that byte, unless `a` is in ROM; every other byte reads as it did (R82). -/
def Stored (m m' : Memory) (a : Word) (v : Byte) : Prop :=
  ∀ k, m'.read k = if k = a.toNat ∧ ramStart ≤ k then v else m.read k

/-- Memory after a write of the word `v` at `a`, low byte first, each byte on its own (R84); every other byte reads as it
did. -/
def StoredWord (m m' : Memory) (a v : Word) : Prop :=
  ∀ k, m'.read k =
    if k = (a + 1).toNat ∧ ramStart ≤ k then v.extractLsb' 8 8
    else if k = a.toNat ∧ ramStart ≤ k then v.extractLsb' 0 8
    else m.read k

/-- The eight bits of a flag byte, in the order S Z Y H X PV N C (10_state.md R35). -/
def FlagBits (f : Byte) (s z y h x pv n c : Bool) : Prop :=
  f.getLsbD 7 = s ∧ f.getLsbD 6 = z ∧ f.getLsbD 5 = y ∧ f.getLsbD 4 = h ∧ f.getLsbD 3 = x ∧ f.getLsbD 2 = pv ∧
    f.getLsbD 1 = n ∧ f.getLsbD 0 = c

/-- An instruction answers a next state whose CPU is `cpu`, with memory and devices as they were. -/
def SetsCpu (i : Instr) (s : State) (cpu : Cpu) : Prop :=
  ∃ t, exec i s = .next t ∧ t.cpu = cpu ∧ SameMemory s t ∧ SameDevices s t

/-- An instruction answers a next state whose CPU is `cpu`, with `v` written at `a` and nothing else in memory or in the
devices changed. -/
def SetsByte (i : Instr) (s : State) (cpu : Cpu) (a : Word) (v : Byte) : Prop :=
  ∃ t, exec i s = .next t ∧ t.cpu = cpu ∧ Stored s.mem t.mem a v ∧ SameDevices s t

/-- An instruction answers a next state whose CPU is `cpu`, with the word `v` written at `a` and nothing else in memory or
in the devices changed. -/
def SetsWord (i : Instr) (s : State) (cpu : Cpu) (a v : Word) : Prop :=
  ∃ t, exec i s = .next t ∧ t.cpu = cpu ∧ StoredWord s.mem t.mem a v ∧ SameDevices s t

/-- The tacts a step that ends here adds: the rule's number and the waits of its accesses (R100). -/
def State.after (s : State) (n : Nat) (accesses : List Access) : Nat := s.cpu.tacts + n + s.waits accesses

/-! ### Flags -/

/-- `Parity(v)` counted: an even number of 1 bits (00_scope.md R10). -/
def evenOnes (v : Byte) : Bool := ((List.range 8).filter fun i => v.getLsbD i).length % 2 == 0

/-- A signed result that does not fit the width: two's-complement overflow (10_state.md R36). -/
def outOfRange (width : Nat) (t : Int) : Bool := decide (t < -(2 ^ (width - 1)) ∨ 2 ^ (width - 1) ≤ t)

/-- The flags an instruction takes from an 8-bit result: S, Z, Y, X from its bits (10_state.md R36), the others given. -/
def ResultFlags (f res : Byte) (h pv n c : Bool) : Prop :=
  FlagBits f (decide (128 ≤ res.toNat)) (decide (res.toNat = 0)) (res.getLsbD 5) h (res.getLsbD 3) pv n c

/-! ### Operand forms (41_arith8.md R260; 44_rotate_shift.md R334, R343) -/

/-- The five forms of an accumulator operation. `P a f v a' f'` says what the operation makes of A, F and the operand `v`.
The tacts are those of the final step: the rule's total less 4 for the prefix byte. -/
def AluForms (reg : Reg8 → Instr) (immediate : Byte → Instr) (memHl : Instr) (memXy : IndexReg → Byte → Instr)
    (half : IndexReg → Half → Instr) (P : Byte → Byte → Byte → Byte → Byte → Prop) : Prop :=
  ∀ s : State,
    (∀ r, ∃ a f, P s.cpu.a s.cpu.f (s.reg r) a f ∧
      SetsCpu (reg r) s { s.cpu with a := a, f := f, tacts := s.after 4 [] }) ∧
    (∀ n, ∃ a f, P s.cpu.a s.cpu.f n a f ∧
      SetsCpu (immediate n) s { s.cpu with a := a, f := f, tacts := s.after 7 [] }) ∧
    (∃ a f, P s.cpu.a s.cpu.f (s.mem.read s.hl.toNat) a f ∧
      SetsCpu memHl s { s.cpu with a := a, f := f, tacts := s.after 7 [readAt s.hl] }) ∧
    (∀ x d, ∃ a f, P s.cpu.a s.cpu.f (s.mem.read (s.xy x + d.signExtend 16).toNat) a f ∧
      SetsCpu (memXy x d) s
        { s.cpu with
          a := a, f := f, memptr := s.xy x + d.signExtend 16
          tacts := s.after 15 [readAt (s.xy x + d.signExtend 16)] }) ∧
    (∀ x h, ∃ a f, P s.cpu.a s.cpu.f (s.xyHalf x h) a f ∧
      SetsCpu (half x h) s { s.cpu with a := a, f := f, tacts := s.after 4 [] })

/-- The register, (HL) and (XY+d) forms of an operation that changes one byte. `P v f v' f'` says what it makes of the byte
and F; `n` is the tacts of the final step of the (XY+d) form. A write into ROM is dropped, F still changes. -/
def ModifyForms (reg : Reg8 → Instr) (memHl : Instr) (memXy : IndexReg → Byte → Instr) (n : Nat)
    (P : Byte → Byte → Byte → Byte → Prop) : Prop :=
  ∀ s : State,
    (∀ r, ∃ v f, P (s.reg r) s.cpu.f v f ∧
      SetsCpu (reg r) s { (s.setReg r v).cpu with f := f, tacts := s.after 4 [] }) ∧
    (∃ v f, P (s.mem.read s.hl.toNat) s.cpu.f v f ∧
      SetsByte memHl s { s.cpu with f := f, tacts := s.after 11 [readAt s.hl, writeAt s.hl] } s.hl v) ∧
    (∀ x d, ∃ v f, P (s.mem.read (s.xy x + d.signExtend 16).toNat) s.cpu.f v f ∧
      SetsByte (memXy x d) s
        { s.cpu with
          f := f, memptr := s.xy x + d.signExtend 16
          tacts := s.after n [readAt (s.xy x + d.signExtend 16), writeAt (s.xy x + d.signExtend 16)] }
        (s.xy x + d.signExtend 16) v)

/-- The XYH/XYL form of an operation that changes one byte. -/
def ModifyHalf (half : IndexReg → Half → Instr) (P : Byte → Byte → Byte → Byte → Prop) : Prop :=
  ∀ (s : State) x h, ∃ v f, P (s.xyHalf x h) s.cpu.f v f ∧
    SetsCpu (half x h) s { (s.setXyHalf x h v).cpu with f := f, tacts := s.after 4 [] }

/-- The (XY+d) form with a copy to a register, written even where the memory write is dropped (44_rotate_shift.md R343,
45_bit.md R366, R370). -/
def ModifyCopy (copy : IndexReg → Byte → Reg8 → Instr) (P : Byte → Byte → Byte → Byte → Prop) : Prop :=
  ∀ (s : State) x d r, ∃ v f, P (s.mem.read (s.xy x + d.signExtend 16).toNat) s.cpu.f v f ∧
    SetsByte (copy x d r) s
      { (s.setReg r v).cpu with
        f := f, memptr := s.xy x + d.signExtend 16
        tacts := s.after 15 [readAt (s.xy x + d.signExtend 16), writeAt (s.xy x + d.signExtend 16)] }
      (s.xy x + d.signExtend 16) v

/-! ### Ports (20_memory.md R88 to R90; 48_ula.md R454 to R459) -/

/-- The EAR input at the tact the counter holds, and the tape after the query (48_ula.md R459). -/
def EarAnswers (s : State) (ear : Bool) (tape : Tape) : Prop :=
  if s.tape.loaded = true ∧ s.tape.playing = true then s.tape.getEarBit s.cpu.tacts = .next (ear, tape)
  else ear = s.earIdleLevel ∧ tape = s.tape

/-- A port read at the tact the counter holds answers the byte `v` and leaves the tape `tape`: an odd port answers 0xFF
(20_memory.md R90), an even one is the ULA's (48_ula.md R456, R458), which has seen no later tact (R455). -/
def PortAnswers (s : State) (p : Word) (v : Byte) (tape : Tape) : Prop :=
  if p.getLsbD 0 = true then v = 0xFF ∧ tape = s.tape
  else
    s.ula.timeOk s.cpu.tacts = true ∧
      ∃ ear, EarAnswers s ear tape ∧ v.getLsbD 7 = true ∧ v.getLsbD 6 = ear ∧ v.getLsbD 5 = true ∧
        v.extractLsb' 0 5 = s.env.keyboard.lines (p.extractLsb' 8 8)

/-- A port write of `v` at the tact the counter holds leaves the ULA `ula`: an odd port changes nothing, an even one is the
ULA's, which renders up to the tact before and latches the three fields (48_ula.md R454, R457). -/
def PortTakes (s : State) (p : Word) (v : Byte) (ula : Ula) : Prop :=
  if p.getLsbD 0 = true then ula = s.ula
  else
    s.ula.timeOk s.cpu.tacts = true ∧
      ula =
        { (s.ula.completeFrames s.mem s.cpu.tacts).renderTo s.mem
            ((s.cpu.tacts : Int) - (s.ula.completeFrames s.mem s.cpu.tacts).frameStart - 1) with
          borderColour := v.extractLsb' 0 3, micOut := v.getLsbD 3, earOut := v.getLsbD 4 }

/-- An instruction answers a next state with the CPU, the ULA and the tape given, memory as it was. -/
def SetsDevices (i : Instr) (s : State) (cpu : Cpu) (ula : Ula) (tape : Tape) : Prop :=
  ∃ t, exec i s = .next t ∧ t.cpu = cpu ∧ SameMemory s t ∧ t.ula = ula ∧ t.tape = tape ∧ t.env = s.env

/-- The flags of the block I/O instructions: `v` the byte moved, `b` the decremented B, `k` the rule's sum (47_io.md
R413, R420). -/
def IoBlockFlags (f v b : Byte) (k : Nat) : Prop :=
  ResultFlags f b (decide (0xFF < k)) (evenOnes (BitVec.ofNat 8 (k % 8) ^^^ b)) (v.getLsbD 7) (decide (0xFF < k))

/-- INI and its kin answer a next state (47_io.md R413 to R416): the byte the port answers at the end-of-step tact is
written at HL, B is decremented; `n` the final step's tacts, `pc`, `hl`, `memptr` the new values, `k` the rule's sum. -/
def StoresInput (i : Instr) (s : State) (n : Nat) (pc hl memptr : Word) (k : Byte → Nat) : Prop :=
  ∀ v tape, PortAnswers (s.charge n [portReadAt s.bc, writeAt s.hl]) s.bc v tape →
    ∃ f t, IoBlockFlags f v (s.cpu.b - 1) (k v) ∧ exec i s = .next t ∧
      t.cpu =
        { ((s.setReg .b (s.cpu.b - 1)).setHl hl).cpu with
          f := f, pc := pc, memptr := memptr, tacts := s.after n [portReadAt s.bc, writeAt s.hl] } ∧
      Stored s.mem t.mem s.hl v ∧ t.ula = s.ula ∧ t.tape = tape ∧ t.env = s.env

/-- OUTI and its kin answer a next state (47_io.md R420 to R423): the byte at HL goes to the port `port`, whose high byte is
the decremented B. -/
def SendsOutput (i : Instr) (s : State) (n : Nat) (pc hl memptr port : Word) (k : Nat) : Prop :=
  ∀ ula, PortTakes (s.charge n [readAt s.hl, portWriteAt port]) port (s.mem.read s.hl.toNat) ula →
    ∃ f, IoBlockFlags f (s.mem.read s.hl.toNat) (s.cpu.b - 1) k ∧
      SetsDevices i s
        { ((s.setReg .b (s.cpu.b - 1)).setHl hl).cpu with
          f := f, pc := pc, memptr := memptr, tacts := s.after n [readAt s.hl, portWriteAt port] } ula s.tape

/-! ### Tape files (49_tzx.md R490 to R509) -/

/-- The `k` bytes of a number, least significant first: the BYTE, WORD, BYTE3 and DWORD of a TZX file. -/
def littleEndian : Nat → Nat → List Byte
  | 0, _ => []
  | k + 1, n => BitVec.ofNat 8 n :: littleEndian k (n / 256)

/-- A WORD of a TZX file. -/
def wordBytes (w : Word) : List Byte := littleEndian 2 w.toNat

/-- A CHAR or BYTE list behind its length in `k` bytes. -/
def counted (k : Nat) (data : List Byte) : List Byte := littleEndian k data.length ++ data

/-- The text ids of R506. -/
def ArchiveTextId.byte : ArchiveTextId → Byte
  | .title => 0x00
  | .publisher => 0x01
  | .other id => id

/-- The bytes of an entry of a 0x32 block (R506). -/
def ArchiveText.bytes (t : ArchiveText) : List Byte := t.id.byte :: counted 1 t.text

/-- The bytes of an entry of a 0x28 block (R503). -/
def Selection.bytes (t : Selection) : List Byte := wordBytes t.offset ++ counted 1 t.text

/-- `bytes` are the block in a file, its ID first, in the layout of its rule (R496 to R509): every length fits its field,
and every count is that of the entries. A body of 0x28, 0x2A, 0x2B or 0x32 may have bytes beyond its fields, the block's
`rest` (notes/assumptions/15.md). A deprecated block stands for any bytes of its length (R509). -/
def TzxBlock.LaidOut (bytes : List Byte) : TzxBlock → Prop
  | .standardSpeed pauseAfter data => data.length < 2 ^ 16 ∧ bytes = [0x10] ++ wordBytes pauseAfter ++ counted 2 data
  | .turboSpeed pilot s1 s2 b0 b1 tone used pauseAfter data =>
    data.length < 2 ^ 24 ∧
      bytes = [0x11] ++ wordBytes pilot ++ wordBytes s1 ++ wordBytes s2 ++ wordBytes b0 ++ wordBytes b1 ++
        wordBytes tone ++ [used] ++ wordBytes pauseAfter ++ counted 3 data
  | .pureTone pulse count => bytes = [0x12] ++ wordBytes pulse ++ wordBytes count
  | .pulseSequence pulses =>
    pulses.length < 2 ^ 8 ∧ bytes = [0x13] ++ littleEndian 1 pulses.length ++ pulses.flatMap wordBytes
  | .pureData b0 b1 used pauseAfter data =>
    data.length < 2 ^ 24 ∧ bytes = [0x14] ++ wordBytes b0 ++ wordBytes b1 ++ [used] ++ wordBytes pauseAfter ++ counted 3 data
  | .directRecording tacts pauseAfter used samples =>
    samples.length < 2 ^ 24 ∧ bytes = [0x15] ++ wordBytes tacts ++ wordBytes pauseAfter ++ [used] ++ counted 3 samples
  | .cswRecording header data =>
    10 + data.length < 2 ^ 32 ∧ ∃ h, header = some h ∧ h.sampleRate < 2 ^ 24 ∧ h.pulseCount < 2 ^ 32 ∧
      bytes = [0x18] ++ counted 4 (wordBytes h.pauseAfter ++ littleEndian 3 h.sampleRate ++ [h.compressionType] ++
        littleEndian 4 h.pulseCount ++ data)
  | .generalizedData header tablesAndStream =>
    14 + tablesAndStream.length < 2 ^ 32 ∧ ∃ h, header = some h ∧ h.totp < 2 ^ 32 ∧ h.totd < 2 ^ 32 ∧
      bytes = [0x19] ++ counted 4 (wordBytes h.pauseAfter ++ littleEndian 4 h.totp ++ [h.npp, h.asp] ++
        littleEndian 4 h.totd ++ [h.npd, h.asd] ++ tablesAndStream)
  | .pause d => bytes = [0x20] ++ wordBytes d
  | .groupStart name => name.length < 2 ^ 8 ∧ bytes = [0x21] ++ counted 1 name
  | .groupEnd => bytes = [0x22]
  | .jumpToBlock relative => bytes = [0x23] ++ wordBytes relative
  | .loopStart repetitions => bytes = [0x24] ++ wordBytes repetitions
  | .loopEnd => bytes = [0x25]
  | .callSequence calls =>
    calls.length < 2 ^ 16 ∧ bytes = [0x26] ++ littleEndian 2 calls.length ++ calls.flatMap wordBytes
  | .returnFromSequence => bytes = [0x27]
  | .selectBlock count entries rest =>
    entries.length < 2 ^ 8 ∧ count = some (BitVec.ofNat 8 entries.length) ∧ (∀ t ∈ entries, t.text.length < 2 ^ 8) ∧
      1 + (entries.flatMap Selection.bytes ++ rest).length < 2 ^ 16 ∧
      bytes = [0x28] ++ counted 2 (littleEndian 1 entries.length ++ (entries.flatMap Selection.bytes ++ rest))
  | .stopIf48K rest => rest.length < 2 ^ 32 ∧ bytes = [0x2A] ++ counted 4 rest
  | .setSignalLevel level rest =>
    1 + rest.length < 2 ^ 32 ∧ ∃ v, level = some v ∧ bytes = [0x2B] ++ counted 4 (v :: rest)
  | .textDescription text => text.length < 2 ^ 8 ∧ bytes = [0x30] ++ counted 1 text
  | .message seconds text => text.length < 2 ^ 8 ∧ bytes = [0x31, seconds] ++ counted 1 text
  | .archiveInfo count entries rest =>
    entries.length < 2 ^ 8 ∧ count = some (BitVec.ofNat 8 entries.length) ∧
      (∀ t ∈ entries, t.text.length < 2 ^ 8 ∧ ∀ id, t.id = .other id → 0x01 < id.toNat) ∧
      1 + (entries.flatMap ArchiveText.bytes ++ rest).length < 2 ^ 16 ∧
      bytes = [0x32] ++ counted 2 (littleEndian 1 entries.length ++ (entries.flatMap ArchiveText.bytes ++ rest))
  | .hardwareType entries =>
    entries.length < 2 ^ 8 ∧ bytes = [0x33] ++ littleEndian 1 entries.length ++ entries.flatMap fun e => [e.1, e.2.1, e.2.2]
  | .customInfo identification info =>
    identification.length = 16 ∧ info.length < 2 ^ 32 ∧ bytes = [0x35] ++ identification ++ counted 4 info
  | .glue signature major minor =>
    signature = [0x58, 0x54, 0x61, 0x70, 0x65, 0x21, 0x1A] ∧ bytes = [0x5A] ++ signature ++ [major, minor]
  | .deprecated id =>
    ∃ payload : List Byte,
      (id = 0x16 ∨ id = 0x17) ∧ payload.length < 2 ^ 32 ∧ bytes = [id] ++ counted 4 payload ∨
        id = 0x34 ∧ payload.length = 8 ∧ bytes = [id] ++ payload ∨
        id = 0x40 ∧ payload.length < 2 ^ 24 ∧ ∃ kind, bytes = [id, kind] ++ counted 3 payload

/-! ### Fetching and sampling -/

/-- R after one M1 cycle, as 10_state.md R39 writes it. -/
def refreshed (r : Byte) : Byte := BitVec.ofNat 8 (r.toNat / 128 * 128 + (r.toNat % 128 + 1) % 128)

/-- Nothing is accepted at the start of the step: inside an instruction nothing is sampled (60_exceptions.md R551), at an
instruction boundary no NMI is pending and the condition of R553 fails. -/
def State.quiet (s : State) : Prop :=
  s.cpu.pfx ≠ .none ∨
    s.cpu.nmiPending = false ∧ ¬(s.cpu.iff1 = true ∧ s.cpu.eiBlock = false ∧ s.env.interruptTact ≤ s.frameTact ∧
      s.frameTact < s.env.interruptTact + 32)

/-- A maskable interrupt is accepted at the start of the step (60_exceptions.md R553, R554). -/
def State.interrupted (s : State) : Prop :=
  s.cpu.pfx = .none ∧ s.cpu.nmiPending = false ∧ s.cpu.iff1 = true ∧ s.cpu.eiBlock = false ∧
    s.env.interruptTact ≤ s.frameTact ∧ s.frameTact < s.env.interruptTact + 32

/-- The state in which an instruction of a step that fetched `n` bytes executes (30_encoding.md R113): PC past the bytes,
no prefix, the EI block cleared by the sampling point, R counted but for DDCB and FDCB (10_state.md R39), and the fetches'
CONTENTION. -/
def State.fetched (s : State) (n : Nat) : State :=
  { s with cpu := { s.cpu with
      pc := s.cpu.pc + BitVec.ofNat 16 n
      pfx := .none
      eiBlock := if s.cpu.pfx = .none then false else s.cpu.eiBlock
      r := if s.cpu.pfx = .ddcb ∨ s.cpu.pfx = .fdcb then s.cpu.r else refreshed s.cpu.r
      tacts := s.cpu.tacts + s.waits ([readAt s.cpu.pc, readAt (s.cpu.pc + 1), readAt (s.cpu.pc + 2)].take n) } }

/-- A step answers a next state with the CPU given; the ULA has caught up with it (48_ula.md R445), the tape and the open
parameters are as they were. Memory is `M`'s. -/
def StepSets (s : State) (cpu : Cpu) (M : Memory → Prop) : Prop :=
  ∃ t, step s = .next t ∧ t.cpu = cpu ∧ M t.mem ∧ t.ula = s.ula.catchUp t.mem cpu.tacts ∧ t.tape = s.tape ∧ t.env = s.env

/-- The bytes that led to a prefix-mode state (10_state.md R43). -/
def prefixBytes : Pfx → List Byte
  | .none => []
  | .cb => [0xCB]
  | .ed => [0xED]
  | .dd => [0xDD]
  | .fd => [0xFD]
  | .ddcb => [0xDD, 0xCB]
  | .fdcb => [0xFD, 0xCB]

/-- The indexable opcodes as 30_encoding.md R126 lists them. -/
def IsIndexable (op : Byte) : Prop :=
  op.toNat ∈ [0x09, 0x19, 0x29, 0x39, 0x21, 0x22, 0x2A, 0x23, 0x2B, 0x24, 0x25, 0x26, 0x2C, 0x2D, 0x2E, 0x34, 0x35, 0x36] ∨
    (op.toNat / 64 = 1 ∧ (op.toNat / 8 % 8 ∈ [4, 5, 6] ∨ op.toNat % 8 ∈ [4, 5, 6]) ∧ op.toNat ≠ 0x76) ∨
    (op.toNat / 64 = 2 ∧ op.toNat % 8 ∈ [4, 5, 6]) ∨ op.toNat ∈ [0xE1, 0xE3, 0xE5, 0xE9, 0xF9] ∨
    op.toNat ∈ [0xCB, 0xDD, 0xED, 0xFD]

/-- The instruction behind an ignored prefix, and every other instruction itself (30_encoding.md R126). -/
def behindPrefix : Instr → Instr
  | .prefixIgnored _ i => i
  | i => i

/-- The state with the shadow registers of another CPU (10_state.md R32). -/
def State.withShadow (s : State) (c : Cpu) : State :=
  { s with cpu := { s.cpu with
      a' := c.a', f' := c.f', b' := c.b', c' := c.c', d' := c.d', e' := c.e', h' := c.h', l' := c.l' } }

/-- An outcome with its next state changed. -/
def mapNext (g : State → State) : Result → Result
  | .next t => .next (g t)
  | .fault e => .fault e
  | .refused r => .refused r

/-- The five lines of half-row `j` (48_ula.md R458). -/
def keyRow (k : Keyboard) : Nat → BitVec 5
  | 0 => k.row0
  | 1 => k.row1
  | 2 => k.row2
  | 3 => k.row3
  | 4 => k.row4
  | 5 => k.row5
  | 6 => k.row6
  | _ => k.row7

/-! ### Conditions -/

/-- `cond(c)` as 30_encoding.md R119 writes it. -/
def CondTrue (f : Byte) : Cond → Prop
  | .nz => f.getLsbD 6 = false
  | .z => f.getLsbD 6 = true
  | .nc => f.getLsbD 0 = false
  | .c => f.getLsbD 0 = true
  | .po => f.getLsbD 2 = false
  | .pe => f.getLsbD 2 = true
  | .p => f.getLsbD 7 = false
  | .m => f.getLsbD 7 = true

/-- The condition of a conditional `JR` among the eight (30_encoding.md R119). -/
def jrCondOf : JrCond → Cond
  | .nz => .nz
  | .z => .z
  | .nc => .nc
  | .c => .c

end Sys2Proof.Machine
end

