-- ==== Sys2Proof/Certificates/Slice0/Obligations.lean ====
section
/-! DEFINITION. The statements for the provers. Each names the rules of the spec it formalises. -/

open Sys2Proof Sys2Proof.Machine

/-- Words written out bit by bit from the encodings of the spec (R122 to R128) decode to their instructions. -/
def Obligations.SpecWordsDecode : Prop :=
  decodeBytes [0b01000111] = .ok (.ldRR .b .a) ∧
    decodeBytes [0b11011101, 0b01111110, 0b00000101] = .ok (.ldRMemXy .ix .a 5) ∧
    decodeBytes [0b11101101, 0b01111011, 0x34, 0x12] = .ok (.ldRpMemNn .sp 0x1234) ∧
    decodeBytes [0b10011000] = .ok (.sbcAR .b) ∧
    decodeBytes [0b11101101, 0b01010010] = .ok (.sbcHlRp .de) ∧
    decodeBytes [0b11001011, 0b00110000] = .ok (.sllR .b) ∧
    decodeBytes [0b11111101, 0b11001011, 0xFF, 0b00111100] = .ok (.srlMemXyR .iy 0xFF .h) ∧
    decodeBytes [0b11001011, 0b01111000] = .ok (.bitR 7 .b) ∧
    decodeBytes [0b11100010, 0x34, 0x12] = .ok (.jpCcNn .po 0x1234) ∧
    decodeBytes [0b00101000, 0x80] = .ok (.jrCc .z 0x80) ∧
    decodeBytes [0b11111111] = .ok (.rst 7) ∧
    decodeBytes [0b11101101, 0b10110010] = .ok .inir ∧
    decodeBytes [0b11101101, 0b00100011] = .ok (.nopEd0 0b100011) ∧
    decodeBytes [0b11011101, 0b01000000] = .ok (.prefixIgnored .ix (.ldRR .b .b)) ∧
    decodeBytes [0b11011101, 0b01100101] = .ok (.ldXyRR .ix .xyh .xyl)

/-- No bit of an encoding is dropped (30_encoding.md, whole): for every well-formed instruction, decode of encode is
it. -/
def Obligations.DecodeReadsBackEncode : Prop :=
  ∀ i : Instr, i.wellFormed = true → decodeBytes (encode i) = .ok i

/-- The other direction: the bytes a step takes, behind those of its prefix state, are the encoding of what it
decodes. -/
def Obligations.EncodeReadsBackDecode : Prop :=
  ∀ (p : Pfx) (bytes rest : List Byte) (i : Instr), decode p bytes = .ok (i, rest) →
    i.wellFormed = true ∧ prefixBytes p ++ bytes = encode i ++ rest

/-- Step and exec (30_encoding.md R113; 48_ula.md R445): everything the step adds around exec is stated. The form of
the check on device time is the model's reading of R455 (notes/assumptions/12.md). -/
def Obligations.StepRunsDecodedInstruction : Prop :=
  ∀ (s : State) (i : Instr) (rest : List Byte), s.cpu.halted = false → s.quiet →
    decode s.cpu.pfx
        [s.mem.read s.cpu.pc.toNat, s.mem.read (s.cpu.pc + 1).toNat, s.mem.read (s.cpu.pc + 2).toNat] = .ok (i, rest) →
    step s =
      match exec i (s.fetched (3 - rest.length)) with
      | .next u =>
        if u.ula.timeOk u.cpu.tacts = true then .next { u with ula := u.ula.catchUp u.mem u.cpu.tacts }
        else .refused .nonMonotonicDeviceTact
      | .fault e => .fault e
      | .refused r => .refused r

/-- The prefix steps (30_encoding.md R113, R114): prefixCb, prefixDd, prefixEd, prefixFd, prefixXyCb,
prefixDdReplaces, prefixEdReplaces, prefixFdReplaces each answer a next state. -/
def Obligations.PrefixBytesSetPrefix : Prop :=
  ∀ s : State,
    SetsCpu .prefixCb s { s.cpu with pfx := .cb, tacts := s.after 4 [] } ∧
    SetsCpu .prefixDd s { s.cpu with pfx := .dd, tacts := s.after 4 [] } ∧
    SetsCpu .prefixEd s { s.cpu with pfx := .ed, tacts := s.after 4 [] } ∧
    SetsCpu .prefixFd s { s.cpu with pfx := .fd, tacts := s.after 4 [] } ∧
    SetsCpu (.prefixXyCb .ix) s { s.cpu with pfx := .ddcb, tacts := s.after 4 [] } ∧
    SetsCpu (.prefixXyCb .iy) s { s.cpu with pfx := .fdcb, tacts := s.after 4 [] } ∧
    ∀ x,
      SetsCpu (.prefixDdReplaces x) s { s.cpu with pfx := .dd, tacts := s.after 4 [] } ∧
      SetsCpu (.prefixEdReplaces x) s { s.cpu with pfx := .ed, tacts := s.after 4 [] } ∧
      SetsCpu (.prefixFdReplaces x) s { s.cpu with pfx := .fd, tacts := s.after 4 [] }

/-- Ignored prefixes (30_encoding.md R126), with the list of the rule written out in `IsIndexable`. The constructor
prefixIgnored, which holds the instruction behind the prefix, is the model's (DEDUCED, notes/assumptions/8.md); the
prefix step's own tacts and R are PrefixBytesSetPrefix and StepRunsDecodedInstruction; IN A,(n) and OUT (n),A
complete by the equality as InputForms and OutputForms say. -/
def Obligations.IgnoredPrefixRunsUnprefixed : Prop :=
  (∀ (op : Byte) (rest r : List Byte) (i : Instr), ¬IsIndexable op → decode .none (op :: rest) = .ok (i, r) →
      decode .dd (op :: rest) = .ok (.prefixIgnored .ix i, r) ∧ decode .fd (op :: rest) = .ok (.prefixIgnored .iy i, r)) ∧
    ∀ (x : IndexReg) (i : Instr) (s : State), i.ignoresPrefix = true →
      exec (.prefixIgnored x i) s = exec i s ∧
        ((∀ n, i ≠ .inAN n) → (∀ n, i ≠ .outNA n) → ∃ t, exec (.prefixIgnored x i) s = .next t)

/-- The views of 10_state.md R31 and R33: every read after every write through the accessors the meanings use
(setReg, setBc, setDe, setHl, setRp, setStackPair, setXy, setXyHalf, setRegX), and what such a write leaves alone. -/
def Obligations.RegisterViewsAgree : Prop :=
  ∀ (s : State) (v : Byte) (w : Word),
    (∀ r t, t = s.setReg r v → (∀ r', t.reg r' = if r' = r then v else s.reg r') ∧
      t = { s with cpu := { s.cpu with
        a := t.cpu.a, b := t.cpu.b, c := t.cpu.c, d := t.cpu.d, e := t.cpu.e, h := t.cpu.h, l := t.cpu.l } }) ∧
    (s.bc.toNat = s.cpu.b.toNat * 256 + s.cpu.c.toNat ∧ s.de.toNat = s.cpu.d.toNat * 256 + s.cpu.e.toNat ∧
      s.hl.toNat = s.cpu.h.toNat * 256 + s.cpu.l.toNat ∧ s.af.toNat = s.cpu.a.toNat * 256 + s.cpu.f.toNat) ∧
    (s.reg .b = s.cpu.b ∧ s.reg .c = s.cpu.c ∧ s.reg .d = s.cpu.d ∧ s.reg .e = s.cpu.e ∧ s.reg .h = s.cpu.h ∧
      s.reg .l = s.cpu.l ∧ s.reg .a = s.cpu.a) ∧
    (s.rp .bc = s.bc ∧ s.rp .de = s.de ∧ s.rp .hl = s.hl ∧ s.rp .sp = s.cpu.sp) ∧
    (s.stackPair .bc = s.bc ∧ s.stackPair .de = s.de ∧ s.stackPair .hl = s.hl ∧ s.stackPair .af = s.af) ∧
    (s.xy .ix = s.cpu.ix ∧ s.xy .iy = s.cpu.iy) ∧
    (∀ x, (s.xy x).toNat = (s.xyHalf x .hi).toNat * 256 + (s.xyHalf x .lo).toNat) ∧
    (∀ x, s.regX x .b = s.cpu.b ∧ s.regX x .c = s.cpu.c ∧ s.regX x .d = s.cpu.d ∧ s.regX x .e = s.cpu.e ∧
      s.regX x .xyh = s.xyHalf x .hi ∧ s.regX x .xyl = s.xyHalf x .lo ∧ s.regX x .a = s.cpu.a ∧
      s.indexPair x .bc = s.bc ∧ s.indexPair x .de = s.de ∧ s.indexPair x .xy = s.xy x ∧
      s.indexPair x .sp = s.cpu.sp) ∧
    (s.setBc w = { s with cpu := { s.cpu with b := w.extractLsb' 8 8, c := w.extractLsb' 0 8 } } ∧
      s.setDe w = { s with cpu := { s.cpu with d := w.extractLsb' 8 8, e := w.extractLsb' 0 8 } } ∧
      s.setHl w = { s with cpu := { s.cpu with h := w.extractLsb' 8 8, l := w.extractLsb' 0 8 } }) ∧
    (∀ p t, t = s.setRp p w → (∀ p', t.rp p' = if p' = p then w else s.rp p') ∧
      t = { s with cpu := { s.cpu with
        b := t.cpu.b, c := t.cpu.c, d := t.cpu.d, e := t.cpu.e, h := t.cpu.h, l := t.cpu.l, sp := t.cpu.sp } }) ∧
    (∀ p t, t = s.setStackPair p w → (∀ p', t.stackPair p' = if p' = p then w else s.stackPair p') ∧
      t = { s with cpu := { s.cpu with
        a := t.cpu.a, f := t.cpu.f, b := t.cpu.b, c := t.cpu.c, d := t.cpu.d, e := t.cpu.e, h := t.cpu.h
        l := t.cpu.l } }) ∧
    (∀ x t, t = s.setXy x w → (∀ y, t.xy y = if y = x then w else s.xy y) ∧
      t = { s with cpu := { s.cpu with ix := t.cpu.ix, iy := t.cpu.iy } }) ∧
    (∀ x h t, t = s.setXyHalf x h v → (∀ y k, t.xyHalf y k = if y = x ∧ k = h then v else s.xyHalf y k) ∧
      t = { s with cpu := { s.cpu with ix := t.cpu.ix, iy := t.cpu.iy } }) ∧
    ∀ x r t, t = s.setRegX x r v → (∀ r', t.regX x r' = if r' = r then v else s.regX x r') ∧
      (∀ y, y ≠ x → t.xy y = s.xy y) ∧
      t = { s with cpu := { s.cpu with
        a := t.cpu.a, b := t.cpu.b, c := t.cpu.c, d := t.cpu.d, e := t.cpu.e, ix := t.cpu.ix, iy := t.cpu.iy } }

/-- ldRR, ldRN (40_load_exchange.md R200, R201), ldXyRR, ldXyHalfN (R218, R219) answer a next state; result and
frame. ldRMemHl, ldRMemXy (R202, R203), ldAMemBc, ldAMemDe, ldAMemNn (R208 to R210) answer a next state; result and
frame. ldAI, ldAR, ldIA, ldRA (R214 to R217) answer a next state; result and frame. -/
def Obligations.ByteLoadForms : Prop :=
  (∀ s : State,
    (∀ dst src, SetsCpu (.ldRR dst src) s { (s.setReg dst (s.reg src)).cpu with tacts := s.after 4 [] }) ∧
    (∀ r n, SetsCpu (.ldRN r n) s { (s.setReg r n).cpu with tacts := s.after 7 [] }) ∧
    (∀ x dst src, SetsCpu (.ldXyRR x dst src) s { (s.setRegX x dst (s.regX x src)).cpu with tacts := s.after 4 [] }) ∧
    ∀ x h n, SetsCpu (.ldXyHalfN x h n) s { (s.setXyHalf x h n).cpu with tacts := s.after 7 [] }) ∧
  (∀ s : State,
    (∀ r, SetsCpu (.ldRMemHl r) s { (s.setReg r (s.mem.read s.hl.toNat)).cpu with tacts := s.after 7 [readAt s.hl] }) ∧
    (∀ x r d, SetsCpu (.ldRMemXy x r d) s
      { (s.setReg r (s.mem.read (s.xy x + d.signExtend 16).toNat)).cpu with
        memptr := s.xy x + d.signExtend 16, tacts := s.after 15 [readAt (s.xy x + d.signExtend 16)] }) ∧
    SetsCpu .ldAMemBc s
      { s.cpu with a := s.mem.read s.bc.toNat, memptr := s.bc + 1, tacts := s.after 7 [readAt s.bc] } ∧
    SetsCpu .ldAMemDe s
      { s.cpu with a := s.mem.read s.de.toNat, memptr := s.de + 1, tacts := s.after 7 [readAt s.de] } ∧
    ∀ nn, SetsCpu (.ldAMemNn nn) s
      { s.cpu with a := s.mem.read nn.toNat, memptr := nn + 1, tacts := s.after 13 [readAt nn] }) ∧
  (∀ s : State,
    (∃ f, ResultFlags f s.cpu.i false s.cpu.iff2 false (s.cpu.f.getLsbD 0) ∧
      SetsCpu .ldAI s { s.cpu with a := s.cpu.i, f := f, tacts := s.after 5 [] }) ∧
    (∃ f, ResultFlags f s.cpu.r false s.cpu.iff2 false (s.cpu.f.getLsbD 0) ∧
      SetsCpu .ldAR s { s.cpu with a := s.cpu.r, f := f, tacts := s.after 5 [] }) ∧
    SetsCpu .ldIA s { s.cpu with i := s.cpu.a, tacts := s.after 5 [] } ∧
    SetsCpu .ldRA s { s.cpu with r := s.cpu.a, tacts := s.after 5 [] })

/-- ldMemHlR, ldMemHlN, ldMemXyR, ldMemXyN, ldMemBcA, ldMemDeA, ldMemNnA (R204 to R207, R211 to R213) answer a next
state. ldMemNnHl, ldMemNnRp, ldMemNnXy (R226 to R228) answer a next state; result and frame. -/
def Obligations.StoreForms : Prop :=
  (∀ s : State,
    (∀ r, SetsByte (.ldMemHlR r) s { s.cpu with tacts := s.after 7 [writeAt s.hl] } s.hl (s.reg r)) ∧
    (∀ n, SetsByte (.ldMemHlN n) s { s.cpu with tacts := s.after 10 [writeAt s.hl] } s.hl n) ∧
    (∀ x r d, SetsByte (.ldMemXyR x r d) s
      { s.cpu with memptr := s.xy x + d.signExtend 16, tacts := s.after 15 [writeAt (s.xy x + d.signExtend 16)] }
      (s.xy x + d.signExtend 16) (s.reg r)) ∧
    (∀ x d n, SetsByte (.ldMemXyN x d n) s
      { s.cpu with memptr := s.xy x + d.signExtend 16, tacts := s.after 15 [writeAt (s.xy x + d.signExtend 16)] }
      (s.xy x + d.signExtend 16) n) ∧
    SetsByte .ldMemBcA s
      { s.cpu with memptr := s.cpu.a ++ (s.cpu.c + 1), tacts := s.after 7 [writeAt s.bc] } s.bc s.cpu.a ∧
    SetsByte .ldMemDeA s
      { s.cpu with memptr := s.cpu.a ++ (s.cpu.e + 1), tacts := s.after 7 [writeAt s.de] } s.de s.cpu.a ∧
    ∀ nn : Word, SetsByte (.ldMemNnA nn) s
      { s.cpu with memptr := s.cpu.a ++ (nn.extractLsb' 0 8 + 1), tacts := s.after 13 [writeAt nn] } nn s.cpu.a) ∧
  (∀ (s : State) (nn : Word),
    SetsWord (.ldMemNnHl nn) s
      { s.cpu with memptr := nn + 1, tacts := s.after 16 [writeAt nn, writeAt (nn + 1)] } nn s.hl ∧
    (∀ rp, SetsWord (.ldMemNnRp rp nn) s
      { s.cpu with memptr := nn + 1, tacts := s.after 16 [writeAt nn, writeAt (nn + 1)] } nn (s.rp rp)) ∧
    ∀ x, SetsWord (.ldMemNnXy x nn) s
      { s.cpu with memptr := nn + 1, tacts := s.after 16 [writeAt nn, writeAt (nn + 1)] } nn (s.xy x))

/-- ldRpNn, ldXyNn, ldHlMemNn, ldRpMemNn, ldXyMemNn, ldSpHl, ldSpXy (R220, R221, R223 to R225, R229, R230). -/
def Obligations.LoadWordForms : Prop :=
  ∀ s : State,
    (∀ rp nn, SetsCpu (.ldRpNn rp nn) s { (s.setRp rp nn).cpu with tacts := s.after 10 [] }) ∧
    (∀ x nn, SetsCpu (.ldXyNn x nn) s { (s.setXy x nn).cpu with tacts := s.after 10 [] }) ∧
    (∀ nn, SetsCpu (.ldHlMemNn nn) s
      { s.cpu with
        h := s.mem.read (nn + 1).toNat, l := s.mem.read nn.toNat, memptr := nn + 1
        tacts := s.after 16 [readAt nn, readAt (nn + 1)] }) ∧
    (∀ rp nn, SetsCpu (.ldRpMemNn rp nn) s
      { (s.setRp rp (s.mem.read (nn + 1).toNat ++ s.mem.read nn.toNat)).cpu with
        memptr := nn + 1, tacts := s.after 16 [readAt nn, readAt (nn + 1)] }) ∧
    (∀ x nn, SetsCpu (.ldXyMemNn x nn) s
      { (s.setXy x (s.mem.read (nn + 1).toNat ++ s.mem.read nn.toNat)).cpu with
        memptr := nn + 1, tacts := s.after 16 [readAt nn, readAt (nn + 1)] }) ∧
    SetsCpu .ldSpHl s { s.cpu with sp := s.hl, tacts := s.after 6 [] } ∧
    ∀ x, SetsCpu (.ldSpXy x) s { s.cpu with sp := s.xy x, tacts := s.after 6 [] }

/-- pushQq, pushXy, popQq, popXy (R222, R231 to R234) answer a next state; result and frame. exDeHl, exAfAf, exx,
exMemSpHl, exMemSpXy (R235 to R239) answer a next state; result and frame. -/
def Obligations.StackAndExchangeForms : Prop :=
  (∀ s : State,
    (∀ q, SetsWord (.pushQq q) s
      { s.cpu with sp := s.cpu.sp - 2, tacts := s.after 11 [writeAt (s.cpu.sp - 1), writeAt (s.cpu.sp - 2)] }
      (s.cpu.sp - 2) (s.stackPair q)) ∧
    (∀ x, SetsWord (.pushXy x) s
      { s.cpu with sp := s.cpu.sp - 2, tacts := s.after 11 [writeAt (s.cpu.sp - 1), writeAt (s.cpu.sp - 2)] }
      (s.cpu.sp - 2) (s.xy x)) ∧
    (∀ q, SetsCpu (.popQq q) s
      { (s.setStackPair q (s.mem.read (s.cpu.sp + 1).toNat ++ s.mem.read s.cpu.sp.toNat)).cpu with
        sp := s.cpu.sp + 2, tacts := s.after 10 [readAt s.cpu.sp, readAt (s.cpu.sp + 1)] }) ∧
    ∀ x, SetsCpu (.popXy x) s
      { (s.setXy x (s.mem.read (s.cpu.sp + 1).toNat ++ s.mem.read s.cpu.sp.toNat)).cpu with
        sp := s.cpu.sp + 2, tacts := s.after 10 [readAt s.cpu.sp, readAt (s.cpu.sp + 1)] }) ∧
  (∀ s : State,
    SetsCpu .exDeHl s
      { s.cpu with d := s.cpu.h, e := s.cpu.l, h := s.cpu.d, l := s.cpu.e, tacts := s.after 4 [] } ∧
    SetsCpu .exAfAf s
      { s.cpu with a := s.cpu.a', f := s.cpu.f', a' := s.cpu.a, f' := s.cpu.f, tacts := s.after 4 [] } ∧
    SetsCpu .exx s
      { s.cpu with
        b := s.cpu.b', c := s.cpu.c', d := s.cpu.d', e := s.cpu.e', h := s.cpu.h', l := s.cpu.l', b' := s.cpu.b
        c' := s.cpu.c, d' := s.cpu.d, e' := s.cpu.e, h' := s.cpu.h, l' := s.cpu.l, tacts := s.after 4 [] } ∧
    SetsWord .exMemSpHl s
      { s.cpu with
        h := s.mem.read (s.cpu.sp + 1).toNat, l := s.mem.read s.cpu.sp.toNat
        memptr := s.mem.read (s.cpu.sp + 1).toNat ++ s.mem.read s.cpu.sp.toNat
        tacts := s.after 19
          [readAt s.cpu.sp, readAt (s.cpu.sp + 1), writeAt s.cpu.sp, writeAt (s.cpu.sp + 1)] } s.cpu.sp s.hl ∧
    ∀ x, SetsWord (.exMemSpXy x) s
      { (s.setXy x (s.mem.read (s.cpu.sp + 1).toNat ++ s.mem.read s.cpu.sp.toNat)).cpu with
        memptr := s.mem.read (s.cpu.sp + 1).toNat ++ s.mem.read s.cpu.sp.toNat
        tacts := s.after 19
          [readAt s.cpu.sp, readAt (s.cpu.sp + 1), writeAt s.cpu.sp, writeAt (s.cpu.sp + 1)] } s.cpu.sp (s.xy x))

/-- ldi, ldd, ldir, lddr (R240 to R243) answer a next state; result, flags and frame of one iteration. -/
def Obligations.BlockTransferIteration : Prop :=
  ∀ s : State, ∃ f,
    FlagBits f (s.cpu.f.getLsbD 7) (s.cpu.f.getLsbD 6) ((s.mem.read s.hl.toNat + s.cpu.a).getLsbD 1) false
      ((s.mem.read s.hl.toNat + s.cpu.a).getLsbD 3) (decide (s.bc ≠ 1)) false (s.cpu.f.getLsbD 0) ∧
    SetsByte .ldi s
      { (((s.setHl (s.hl + 1)).setDe (s.de + 1)).setBc (s.bc - 1)).cpu with
        f := f, tacts := s.after 12 [readAt s.hl, writeAt s.de] } s.de (s.mem.read s.hl.toNat) ∧
    SetsByte .ldd s
      { (((s.setHl (s.hl - 1)).setDe (s.de - 1)).setBc (s.bc - 1)).cpu with
        f := f, tacts := s.after 12 [readAt s.hl, writeAt s.de] } s.de (s.mem.read s.hl.toNat) ∧
    (s.bc ≠ 1 →
      SetsByte .ldir s
        { (((s.setHl (s.hl + 1)).setDe (s.de + 1)).setBc (s.bc - 1)).cpu with
          f := f, pc := s.cpu.pc - 2, memptr := s.cpu.pc - 2 + 1
          tacts := s.after 17 [readAt s.hl, writeAt s.de] } s.de (s.mem.read s.hl.toNat) ∧
      SetsByte .lddr s
        { (((s.setHl (s.hl - 1)).setDe (s.de - 1)).setBc (s.bc - 1)).cpu with
          f := f, pc := s.cpu.pc - 2, memptr := s.cpu.pc - 2 + 1
          tacts := s.after 17 [readAt s.hl, writeAt s.de] } s.de (s.mem.read s.hl.toNat)) ∧
    (s.bc = 1 →
      SetsByte .ldir s
        { (((s.setHl (s.hl + 1)).setDe (s.de + 1)).setBc (s.bc - 1)).cpu with
          f := f, tacts := s.after 12 [readAt s.hl, writeAt s.de] } s.de (s.mem.read s.hl.toNat) ∧
      SetsByte .lddr s
        { (((s.setHl (s.hl - 1)).setDe (s.de - 1)).setBc (s.bc - 1)).cpu with
          f := f, tacts := s.after 12 [readAt s.hl, writeAt s.de] } s.de (s.mem.read s.hl.toNat))

/-- cpi, cpd, cpir, cpdr (R244 to R247) answer a next state; H is stated as the borrow of R36, not by the rule's xor. -/
def Obligations.BlockSearchIteration : Prop :=
  ∀ (s : State) (v : Byte), v = s.mem.read s.hl.toNat → ∃ f k,
    k = s.cpu.a - v - (if s.cpu.a.toNat % 16 < v.toNat % 16 then 1 else 0) ∧
    FlagBits f ((s.cpu.a - v).getLsbD 7) (decide (s.cpu.a = v)) (k.getLsbD 1)
      (decide (s.cpu.a.toNat % 16 < v.toNat % 16)) (k.getLsbD 3) (decide (s.bc ≠ 1)) true (s.cpu.f.getLsbD 0) ∧
    SetsCpu .cpi s
      { ((s.setHl (s.hl + 1)).setBc (s.bc - 1)).cpu with
        f := f, memptr := s.cpu.memptr + 1, tacts := s.after 12 [readAt s.hl] } ∧
    SetsCpu .cpd s
      { ((s.setHl (s.hl - 1)).setBc (s.bc - 1)).cpu with
        f := f, memptr := s.cpu.memptr - 1, tacts := s.after 12 [readAt s.hl] } ∧
    (s.bc ≠ 1 ∧ s.cpu.a ≠ v →
      SetsCpu .cpir s
        { ((s.setHl (s.hl + 1)).setBc (s.bc - 1)).cpu with
          f := f, pc := s.cpu.pc - 2, memptr := s.cpu.pc - 2 + 1, tacts := s.after 17 [readAt s.hl] } ∧
      SetsCpu .cpdr s
        { ((s.setHl (s.hl - 1)).setBc (s.bc - 1)).cpu with
          f := f, pc := s.cpu.pc - 2, memptr := s.cpu.pc - 2 + 1, tacts := s.after 17 [readAt s.hl] }) ∧
    (s.bc = 1 ∨ s.cpu.a = v →
      SetsCpu .cpir s
        { ((s.setHl (s.hl + 1)).setBc (s.bc - 1)).cpu with
          f := f, memptr := s.cpu.memptr + 1, tacts := s.after 12 [readAt s.hl] } ∧
      SetsCpu .cpdr s
        { ((s.setHl (s.hl - 1)).setBc (s.bc - 1)).cpu with
          f := f, memptr := s.cpu.memptr - 1, tacts := s.after 12 [readAt s.hl] })

/-- addAR, addAN, addAMemHl, addAMemXy, addAXyHalf and the five adc forms (R260 to R262) answer a next state. The
flags are stated by the meanings of R36, not by the rule's bit formulas. -/
def Obligations.AddAndAdcAllForms : Prop :=
  AluForms .addAR .addAN .addAMemHl .addAMemXy .addAXyHalf (fun a _ v a' f' =>
      a' = BitVec.ofNat 8 (a.toNat + v.toNat) ∧
      ResultFlags f' a' (decide (15 < a.toNat % 16 + v.toNat % 16)) (outOfRange 8 (a.toInt + v.toInt)) false
        (decide (255 < a.toNat + v.toNat))) ∧
    AluForms .adcAR .adcAN .adcAMemHl .adcAMemXy .adcAXyHalf (fun a f v a' f' =>
      a' = BitVec.ofNat 8 (a.toNat + v.toNat + (f.getLsbD 0).toNat) ∧
      ResultFlags f' a' (decide (15 < a.toNat % 16 + v.toNat % 16 + (f.getLsbD 0).toNat))
        (outOfRange 8 (a.toInt + v.toInt + (f.getLsbD 0).toNat)) false
        (decide (255 < a.toNat + v.toNat + (f.getLsbD 0).toNat)))

/-- subR, subN, subMemHl, subMemXy, subXyHalf, the five sbc forms and the five cp forms (R263, R264, R268) answer a
next state. The flags are stated by the meanings of R36. -/
def Obligations.SubSbcAndCpAllForms : Prop :=
  AluForms .subR .subN .subMemHl .subMemXy .subXyHalf (fun a _ v a' f' =>
      a' = BitVec.ofNat 8 (256 + a.toNat - v.toNat) ∧
      ResultFlags f' a' (decide (a.toNat % 16 < v.toNat % 16)) (outOfRange 8 (a.toInt - v.toInt)) true
        (decide (a.toNat < v.toNat))) ∧
    AluForms .sbcAR .sbcAN .sbcAMemHl .sbcAMemXy .sbcAXyHalf (fun a f v a' f' =>
      a' = BitVec.ofNat 8 (256 + a.toNat - v.toNat - (f.getLsbD 0).toNat) ∧
      ResultFlags f' a' (decide (a.toNat % 16 < v.toNat % 16 + (f.getLsbD 0).toNat))
        (outOfRange 8 (a.toInt - v.toInt - (f.getLsbD 0).toNat)) true
        (decide (a.toNat < v.toNat + (f.getLsbD 0).toNat))) ∧
    AluForms .cpR .cpN .cpMemHl .cpMemXy .cpXyHalf (fun a _ v a' f' =>
      a' = a ∧
      FlagBits f' ((a - v).getLsbD 7) (decide (a = v)) (v.getLsbD 5) (decide (a.toNat % 16 < v.toNat % 16))
        (v.getLsbD 3) (outOfRange 8 (a.toInt - v.toInt)) true (decide (a.toNat < v.toNat)))

/-- andR, andN, andMemHl, andMemXy, andXyHalf, the five xor forms and the five or forms (R265 to R267) answer a next
state; the parity is counted. -/
def Obligations.LogicAllForms : Prop :=
  AluForms .andR .andN .andMemHl .andMemXy .andXyHalf (fun a _ v a' f' =>
      (∀ j, a'.getLsbD j = (a.getLsbD j && v.getLsbD j)) ∧ ResultFlags f' a' true (evenOnes a') false false) ∧
    AluForms .xorR .xorN .xorMemHl .xorMemXy .xorXyHalf (fun a _ v a' f' =>
      (∀ j, a'.getLsbD j = (a.getLsbD j != v.getLsbD j)) ∧ ResultFlags f' a' false (evenOnes a') false false) ∧
    AluForms .orR .orN .orMemHl .orMemXy .orXyHalf (fun a _ v a' f' =>
      (∀ j, a'.getLsbD j = (a.getLsbD j || v.getLsbD j)) ∧ ResultFlags f' a' false (evenOnes a') false false)

/-- incR, incMemHl, incMemXy, incXyHalf (R270 to R273), decR, decMemHl, decMemXy, decXyHalf (R274 to R277) answer a
next state. -/
def Obligations.IncrementDecrementAllForms : Prop :=
  let up := fun v f v' f' : Byte =>
    v' = BitVec.ofNat 8 (v.toNat + 1) ∧
      ResultFlags f' v' (decide (15 < v.toNat % 16 + 1)) (outOfRange 8 (v.toInt + 1)) false (f.getLsbD 0)
  let down := fun v f v' f' : Byte =>
    v' = BitVec.ofNat 8 (v.toNat + 255) ∧
      ResultFlags f' v' (decide (v.toNat % 16 < 1)) (outOfRange 8 (v.toInt - 1)) true (f.getLsbD 0)
  ModifyForms .incR .incMemHl .incMemXy 19 up ∧ ModifyHalf .incXyHalf up ∧
    ModifyForms .decR .decMemHl .decMemXy 19 down ∧ ModifyHalf .decXyHalf down

/-- cpl, neg, ccf, scf (R291 to R294) answer a next state; result, flags and frame. -/
def Obligations.AccumulatorFlagInstructions : Prop :=
  ∀ s : State,
    (∃ f, FlagBits f (s.cpu.f.getLsbD 7) (s.cpu.f.getLsbD 6) (!s.cpu.a.getLsbD 5) true (!s.cpu.a.getLsbD 3)
        (s.cpu.f.getLsbD 2) true (s.cpu.f.getLsbD 0) ∧
      SetsCpu .cpl s { s.cpu with a := s.cpu.a ^^^ 0xFF, f := f, tacts := s.after 4 [] }) ∧
    (∀ y, ∃ f, ResultFlags f (BitVec.ofNat 8 (256 - s.cpu.a.toNat)) (decide (s.cpu.a.toNat % 16 ≠ 0))
        (decide (s.cpu.a = 0x80)) true (decide (s.cpu.a ≠ 0)) ∧
      SetsCpu (.neg y) s
        { s.cpu with a := BitVec.ofNat 8 (256 - s.cpu.a.toNat), f := f, tacts := s.after 4 [] }) ∧
    (∃ f, FlagBits f (s.cpu.f.getLsbD 7) (s.cpu.f.getLsbD 6) (s.cpu.a.getLsbD 5) (s.cpu.f.getLsbD 0)
        (s.cpu.a.getLsbD 3) (s.cpu.f.getLsbD 2) false (!s.cpu.f.getLsbD 0) ∧
      SetsCpu .ccf s { s.cpu with f := f, tacts := s.after 4 [] }) ∧
    ∃ f, FlagBits f (s.cpu.f.getLsbD 7) (s.cpu.f.getLsbD 6) (s.cpu.a.getLsbD 5) false (s.cpu.a.getLsbD 3)
        (s.cpu.f.getLsbD 2) false true ∧
      SetsCpu .scf s { s.cpu with f := f, tacts := s.after 4 [] }

/-- daa (R290) answers a next state; the second clause states what the adjustment is for, over all 10000 pairs of BCD
operands. -/
def Obligations.DecimalAdjust : Prop :=
  (∀ (s : State) (n h c : Bool), s.cpu.f.getLsbD 1 = n → s.cpu.f.getLsbD 4 = h → s.cpu.f.getLsbD 0 = c →
      ∃ a diff f,
        diff = (if h = true ∨ 9 < s.cpu.a.toNat % 16 then 6 else 0) +
          (if c = true ∨ 0x99 < s.cpu.a.toNat then 0x60 else 0) ∧
        a = BitVec.ofNat 8 (if n = false then s.cpu.a.toNat + diff else 256 + s.cpu.a.toNat - diff) ∧
        ResultFlags f a
          (if n = false then decide (9 < s.cpu.a.toNat % 16) else h && decide (s.cpu.a.toNat % 16 < 6)) (evenOnes a) n
          (c || decide (0x99 < s.cpu.a.toNat)) ∧
        SetsCpu .daa s { s.cpu with a := a, f := f, tacts := s.after 4 [] }) ∧
    ∀ (s : State) (x y : Nat), x < 100 → y < 100 →
      s.cpu.a = BitVec.ofNat 8 (x / 10 * 16 + x % 10) →
      ∃ s1 s2, exec (.addAN (BitVec.ofNat 8 (y / 10 * 16 + y % 10))) s = .next s1 ∧ exec .daa s1 = .next s2 ∧
        s2.cpu.a = BitVec.ofNat 8 ((x + y) / 10 % 10 * 16 + (x + y) % 10) ∧
        s2.cpu.f.getLsbD 0 = decide (100 ≤ x + y)

/-- nop, halt, di, ei, im0, im0Undoc, im1, im2, nopEd0, nopEd2, nopEd3, nopEd7 (R295 to R303) answer a next state. -/
def Obligations.ControlInstructions : Prop :=
  ∀ s : State,
    SetsCpu .nop s { s.cpu with tacts := s.after 4 [] } ∧
    SetsCpu .halt s { s.cpu with halted := true, tacts := s.after 4 [] } ∧
    SetsCpu .di s { s.cpu with iff1 := false, iff2 := false, tacts := s.after 4 [] } ∧
    SetsCpu .ei s { s.cpu with iff1 := true, iff2 := true, eiBlock := true, tacts := s.after 4 [] } ∧
    (∀ y, SetsCpu (.im0 y) s { s.cpu with im := .im0, tacts := s.after 4 [] }) ∧
    (∀ y, SetsCpu (.im0Undoc y) s { s.cpu with im := .im0, tacts := s.after 4 [] }) ∧
    (∀ y, SetsCpu (.im1 y) s { s.cpu with im := .im1, tacts := s.after 4 [] }) ∧
    (∀ y, SetsCpu (.im2 y) s { s.cpu with im := .im2, tacts := s.after 4 [] }) ∧
    (∀ o, SetsCpu (.nopEd0 o) s { s.cpu with tacts := s.after 4 [] }) ∧
    (∀ o, SetsCpu (.nopEd2 o) s { s.cpu with tacts := s.after 4 [] }) ∧
    (∀ o, SetsCpu (.nopEd3 o) s { s.cpu with tacts := s.after 4 [] }) ∧
    ∀ y, SetsCpu (.nopEd7 y) s { s.cpu with tacts := s.after 4 [] }

/-- addHlRp, addXyRp (R310, R313) answer a next state; the carries are stated by their meaning (R36). incRp, incXy,
decRp, decXy (R314 to R317) answer a next state; result and frame. -/
def Obligations.AddIncDec16Forms : Prop :=
  (let flags := fun (f' f : Byte) (x v res : Word) =>
    FlagBits f' (f.getLsbD 7) (f.getLsbD 6) (res.getLsbD 13) (decide (4095 < x.toNat % 4096 + v.toNat % 4096))
      (res.getLsbD 11) (f.getLsbD 2) false (decide (65535 < x.toNat + v.toNat))
  ∀ s : State,
    (∀ rp, ∃ res f, res = BitVec.ofNat 16 (s.hl.toNat + (s.rp rp).toNat) ∧ flags f s.cpu.f s.hl (s.rp rp) res ∧
      SetsCpu (.addHlRp rp) s
        { (s.setHl res).cpu with f := f, memptr := s.hl + 1, tacts := s.after 11 [] }) ∧
    ∀ x rp, ∃ res f, res = BitVec.ofNat 16 ((s.xy x).toNat + (s.indexPair x rp).toNat) ∧
      flags f s.cpu.f (s.xy x) (s.indexPair x rp) res ∧
      SetsCpu (.addXyRp x rp) s
        { (s.setXy x res).cpu with f := f, memptr := s.xy x + 1, tacts := s.after 11 [] }) ∧
  (∀ s : State,
    (∀ rp, SetsCpu (.incRp rp) s { (s.setRp rp (s.rp rp + 1)).cpu with tacts := s.after 6 [] }) ∧
    (∀ x, SetsCpu (.incXy x) s { (s.setXy x (s.xy x + 1)).cpu with tacts := s.after 6 [] }) ∧
    (∀ rp, SetsCpu (.decRp rp) s { (s.setRp rp (s.rp rp - 1)).cpu with tacts := s.after 6 [] }) ∧
    ∀ x, SetsCpu (.decXy x) s { (s.setXy x (s.xy x - 1)).cpu with tacts := s.after 6 [] })

/-- adcHlRp, sbcHlRp (R311, R312) answer a next state; carries, borrows and overflow are stated by their meaning
(R36). -/
def Obligations.AdcAndSbc16 : Prop :=
  ∀ (s : State) (rp : RegPair) (x v : Word) (c : Nat), x = s.hl → v = s.rp rp → c = (s.cpu.f.getLsbD 0).toNat →
    (∃ res f, res = BitVec.ofNat 16 (x.toNat + v.toNat + c) ∧
      FlagBits f (res.getLsbD 15) (decide (res.toNat = 0)) (res.getLsbD 13)
        (decide (4095 < x.toNat % 4096 + v.toNat % 4096 + c)) (res.getLsbD 11)
        (outOfRange 16 (x.toInt + v.toInt + c)) false (decide (65535 < x.toNat + v.toNat + c)) ∧
      SetsCpu (.adcHlRp rp) s { (s.setHl res).cpu with f := f, memptr := x + 1, tacts := s.after 11 [] }) ∧
    ∃ res f, res = BitVec.ofNat 16 (65536 + x.toNat - v.toNat - c) ∧
      FlagBits f (res.getLsbD 15) (decide (res.toNat = 0)) (res.getLsbD 13)
        (decide (x.toNat % 4096 < v.toNat % 4096 + c)) (res.getLsbD 11)
        (outOfRange 16 (x.toInt - v.toInt - c)) true (decide (x.toNat < v.toNat + c)) ∧
      SetsCpu (.sbcHlRp rp) s { (s.setHl res).cpu with f := f, memptr := x + 1, tacts := s.after 11 [] }

/-- rlca, rla, rrca, rra (R330 to R333) answer a next state; the result is stated bit by bit. -/
def Obligations.AccumulatorRotates : Prop :=
  let rotates := fun (i : Instr) (s : State) (a' : Byte) (c : Bool) =>
    ∃ f, FlagBits f (s.cpu.f.getLsbD 7) (s.cpu.f.getLsbD 6) (a'.getLsbD 5) false (a'.getLsbD 3) (s.cpu.f.getLsbD 2)
        false c ∧
      SetsCpu i s { s.cpu with a := a', f := f, tacts := s.after 4 [] }
  ∀ s : State,
    rotates .rlca s (s.cpu.a <<< 1 ||| BitVec.ofNat 8 (s.cpu.a.getLsbD 7).toNat) (s.cpu.a.getLsbD 7) ∧
    rotates .rla s (s.cpu.a <<< 1 ||| BitVec.ofNat 8 (s.cpu.f.getLsbD 0).toNat) (s.cpu.a.getLsbD 7) ∧
    rotates .rrca s (s.cpu.a >>> 1 ||| BitVec.ofNat 8 (s.cpu.a.getLsbD 0).toNat <<< 7) (s.cpu.a.getLsbD 0) ∧
    rotates .rra s (s.cpu.a >>> 1 ||| BitVec.ofNat 8 (s.cpu.f.getLsbD 0).toNat <<< 7) (s.cpu.a.getLsbD 0)

/-- rlcR, rlcMemHl, rlcMemXy, rlcMemXyR and the same four of rrc, rl, rr, sla, sra, sll, srl (R334 to R343) answer a
next state. -/
def Obligations.RotatesAllForms : Prop :=
  let rot := fun (res : Byte → Bool → Byte) (bit : Nat) (v f v' f' : Byte) =>
    v' = res v (f.getLsbD 0) ∧ ResultFlags f' v' false (evenOnes v') false (v.getLsbD bit)
  let all := fun (reg : Reg8 → Instr) (memHl : Instr) (memXy : IndexReg → Byte → Instr)
      (copy : IndexReg → Byte → Reg8 → Instr) (P : Byte → Byte → Byte → Byte → Prop) =>
    ModifyForms reg memHl memXy 15 P ∧ ModifyCopy copy P
  all .rlcR .rlcMemHl .rlcMemXy .rlcMemXyR (rot (fun v _ => v <<< 1 ||| BitVec.ofNat 8 (v.getLsbD 7).toNat) 7) ∧
    all .rrcR .rrcMemHl .rrcMemXy .rrcMemXyR
      (rot (fun v _ => v >>> 1 ||| BitVec.ofNat 8 (v.getLsbD 0).toNat <<< 7) 0) ∧
    all .rlR .rlMemHl .rlMemXy .rlMemXyR (rot (fun v c => v <<< 1 ||| BitVec.ofNat 8 c.toNat) 7) ∧
    all .rrR .rrMemHl .rrMemXy .rrMemXyR (rot (fun v c => v >>> 1 ||| BitVec.ofNat 8 c.toNat <<< 7) 0) ∧
    all .slaR .slaMemHl .slaMemXy .slaMemXyR (rot (fun v _ => v <<< 1) 7) ∧
    all .sraR .sraMemHl .sraMemXy .sraMemXyR (rot (fun v _ => v >>> 1 ||| (v &&& 0x80)) 0) ∧
    all .sllR .sllMemHl .sllMemXy .sllMemXyR (rot (fun v _ => v <<< 1 ||| 1) 7) ∧
    all .srlR .srlMemHl .srlMemXy .srlMemXyR (rot (fun v _ => v >>> 1) 0)

/-- rld, rrd (R344, R345) answer a next state; the digits are stated by arithmetic on nibbles. -/
def Obligations.DigitRotates : Prop :=
  ∀ (s : State) (t a : Nat), t = (s.mem.read s.hl.toNat).toNat → a = s.cpu.a.toNat →
    (∃ f, ResultFlags f (BitVec.ofNat 8 (a / 16 * 16 + t / 16)) false
        (evenOnes (BitVec.ofNat 8 (a / 16 * 16 + t / 16))) false (s.cpu.f.getLsbD 0) ∧
      SetsByte .rld s
        { s.cpu with
          a := BitVec.ofNat 8 (a / 16 * 16 + t / 16), f := f, memptr := s.hl + 1
          tacts := s.after 14 [readAt s.hl, writeAt s.hl] } s.hl (BitVec.ofNat 8 (t % 16 * 16 + a % 16))) ∧
    ∃ f, ResultFlags f (BitVec.ofNat 8 (a / 16 * 16 + t % 16)) false
        (evenOnes (BitVec.ofNat 8 (a / 16 * 16 + t % 16))) false (s.cpu.f.getLsbD 0) ∧
      SetsByte .rrd s
        { s.cpu with
          a := BitVec.ofNat 8 (a / 16 * 16 + t % 16), f := f, memptr := s.hl + 1
          tacts := s.after 14 [readAt s.hl, writeAt s.hl] } s.hl (BitVec.ofNat 8 (a % 16 * 16 + t / 16))

/-- bitR, bitMemHl, bitMemXy, bitMemXyDup (R360 to R362) answer a next state; flags and frame. -/
def Obligations.BitTestForms : Prop :=
  let tests := fun (f' f v : Byte) (b : BitVec 3) (y x : Bool) =>
    FlagBits f' (decide (b = 7) && v.getLsbD b.toNat) (!v.getLsbD b.toNat) y true x (!v.getLsbD b.toNat) false
      (f.getLsbD 0)
  ∀ (s : State) (b : BitVec 3),
    (∀ r, ∃ f, tests f s.cpu.f (s.reg r) b ((s.reg r).getLsbD 5) ((s.reg r).getLsbD 3) ∧
      SetsCpu (.bitR b r) s { s.cpu with f := f, tacts := s.after 4 [] }) ∧
    (∃ f, tests f s.cpu.f (s.mem.read s.hl.toNat) b (s.cpu.memptr.getLsbD 13) (s.cpu.memptr.getLsbD 11) ∧
      SetsCpu (.bitMemHl b) s { s.cpu with f := f, tacts := s.after 8 [readAt s.hl] }) ∧
    ∀ (x : IndexReg) (d : Byte) (ea : Word), ea = s.xy x + d.signExtend 16 →
      ∃ f, tests f s.cpu.f (s.mem.read ea.toNat) b (ea.getLsbD 13) (ea.getLsbD 11) ∧
        SetsCpu (.bitMemXy x d b) s { s.cpu with f := f, memptr := ea, tacts := s.after 12 [readAt ea] } ∧
        ∀ r, SetsCpu (.bitMemXyDup x d b r) s { s.cpu with f := f, memptr := ea, tacts := s.after 12 [readAt ea] }

/-- setR, setMemHl, setMemXy, setMemXyR (R363 to R366), resR, resMemHl, resMemXy, resMemXyR (R367 to R370) answer a
next state. -/
def Obligations.SetAndResetBitAllForms : Prop :=
  ∀ b : BitVec 3,
    let sets := fun v f v' f' : Byte => f' = f ∧ ∀ j, v'.getLsbD j = (v.getLsbD j || decide (j = b.toNat))
    let resets := fun v f v' f' : Byte => f' = f ∧ ∀ j, v'.getLsbD j = (v.getLsbD j && decide (j ≠ b.toNat))
    ModifyForms (.setR b) (.setMemHl b) (.setMemXy · · b) 15 sets ∧ ModifyCopy (.setMemXyR · · b ·) sets ∧
      ModifyForms (.resR b) (.resMemHl b) (.resMemXy · · b) 15 resets ∧ ModifyCopy (.resMemXyR · · b ·) resets

/-- jpNn, jpCcNn, jr, jrCc, jpHl, jpXy, djnz (R380 to R386) answer a next state, taken and not taken. -/
def Obligations.JumpForms : Prop :=
  ∀ s : State,
    (∀ nn, SetsCpu (.jpNn nn) s { s.cpu with pc := nn, memptr := nn, tacts := s.after 10 [] }) ∧
    (∀ cc nn, (CondTrue s.cpu.f cc →
        SetsCpu (.jpCcNn cc nn) s { s.cpu with pc := nn, memptr := nn, tacts := s.after 10 [] }) ∧
      (¬CondTrue s.cpu.f cc → SetsCpu (.jpCcNn cc nn) s { s.cpu with memptr := nn, tacts := s.after 10 [] })) ∧
    SetsCpu .jpHl s { s.cpu with pc := s.hl, tacts := s.after 4 [] } ∧
    (∀ x, SetsCpu (.jpXy x) s { s.cpu with pc := s.xy x, tacts := s.after 4 [] }) ∧
    ∀ (e : Byte) (target : Word), target = s.cpu.pc + e.signExtend 16 →
      SetsCpu (.jr e) s { s.cpu with pc := target, memptr := target, tacts := s.after 12 [] } ∧
      (∀ jc, (CondTrue s.cpu.f (jrCondOf jc) →
          SetsCpu (.jrCc jc e) s { s.cpu with pc := target, memptr := target, tacts := s.after 12 [] }) ∧
        (¬CondTrue s.cpu.f (jrCondOf jc) → SetsCpu (.jrCc jc e) s { s.cpu with tacts := s.after 7 [] })) ∧
      (s.cpu.b ≠ 1 →
        SetsCpu (.djnz e) s
          { s.cpu with b := s.cpu.b - 1, pc := target, memptr := target, tacts := s.after 13 [] }) ∧
      (s.cpu.b = 1 → SetsCpu (.djnz e) s { s.cpu with b := 0, tacts := s.after 8 [] })

/-- callNn, callCcNn, rst (R387, R388, R393) answer a next state, taken and not taken. ret, retCc, reti, retn (R389
to R392, R563) answer a next state, taken and not taken. -/
def Obligations.CallAndReturnForms : Prop :=
  (let calls := fun (i : Instr) (s : State) (target : Word) (n : Nat) =>
    SetsWord i s
      { s.cpu with
        sp := s.cpu.sp - 2, pc := target, memptr := target
        tacts := s.after n [writeAt (s.cpu.sp - 1), writeAt (s.cpu.sp - 2)] } (s.cpu.sp - 2) s.cpu.pc
  ∀ s : State,
    (∀ nn, calls (.callNn nn) s nn 17) ∧
    (∀ cc nn, (CondTrue s.cpu.f cc → calls (.callCcNn cc nn) s nn 17) ∧
      (¬CondTrue s.cpu.f cc → SetsCpu (.callCcNn cc nn) s { s.cpu with memptr := nn, tacts := s.after 10 [] })) ∧
    ∀ t : BitVec 3, calls (.rst t) s (BitVec.ofNat 16 (8 * t.toNat)) 11) ∧
  (∀ (s : State) (back : Word), back = s.mem.read (s.cpu.sp + 1).toNat ++ s.mem.read s.cpu.sp.toNat →
    SetsCpu .ret s
      { s.cpu with
        sp := s.cpu.sp + 2, pc := back, memptr := back
        tacts := s.after 10 [readAt s.cpu.sp, readAt (s.cpu.sp + 1)] } ∧
    (∀ cc, (CondTrue s.cpu.f cc →
        SetsCpu (.retCc cc) s
          { s.cpu with
            sp := s.cpu.sp + 2, pc := back, memptr := back
            tacts := s.after 11 [readAt s.cpu.sp, readAt (s.cpu.sp + 1)] }) ∧
      (¬CondTrue s.cpu.f cc → SetsCpu (.retCc cc) s { s.cpu with tacts := s.after 5 [] })) ∧
    SetsCpu .reti s
      { s.cpu with
        iff1 := s.cpu.iff2, sp := s.cpu.sp + 2, pc := back, memptr := back
        tacts := s.after 10 [readAt s.cpu.sp, readAt (s.cpu.sp + 1)] } ∧
    ∀ y, SetsCpu (.retn y) s
      { s.cpu with
        iff1 := s.cpu.iff2, sp := s.cpu.sp + 2, pc := back, memptr := back
        tacts := s.after 10 [readAt s.cpu.sp, readAt (s.cpu.sp + 1)] })

/-- inAN, inRC, inC (R410 to R412) answer a next state wherever the port answers: an odd port always, the ULA when it
has seen no later tact and the tape player, if it plays, has a level. -/
def Obligations.InputForms : Prop :=
  ∀ (s : State) (v : Byte) (tape : Tape),
    (∀ (n : Byte) (port : Word), port = s.cpu.a ++ n → PortAnswers (s.charge 11 [portReadAt port]) port v tape →
      SetsDevices (.inAN n) s
        { s.cpu with a := v, memptr := port + 1, tacts := s.after 11 [portReadAt port] } s.ula tape) ∧
    (PortAnswers (s.charge 8 [portReadAt s.bc]) s.bc v tape →
      ∃ f, ResultFlags f v false (evenOnes v) false (s.cpu.f.getLsbD 0) ∧
        SetsDevices .inC s
          { s.cpu with f := f, memptr := s.bc + 1, tacts := s.after 8 [portReadAt s.bc] } s.ula tape ∧
        ∀ r, SetsDevices (.inRC r) s
          { (s.setReg r v).cpu with f := f, memptr := s.bc + 1, tacts := s.after 8 [portReadAt s.bc] } s.ula tape)

/-- outNA, outCR, outC0 (R417 to R419) answer a next state wherever the ULA has seen no later tact, and always on an
odd port. -/
def Obligations.OutputForms : Prop :=
  ∀ (s : State) (ula : Ula),
    (∀ (n : Byte) (port : Word), port = s.cpu.a ++ n →
      PortTakes (s.charge 11 [portWriteAt port]) port s.cpu.a ula →
      SetsDevices (.outNA n) s
        { s.cpu with memptr := s.cpu.a ++ (n + 1), tacts := s.after 11 [portWriteAt port] } ula s.tape) ∧
    (∀ r, PortTakes (s.charge 8 [portWriteAt s.bc]) s.bc (s.reg r) ula →
      SetsDevices (.outCR r) s
        { s.cpu with memptr := s.bc + 1, tacts := s.after 8 [portWriteAt s.bc] } ula s.tape) ∧
    (PortTakes (s.charge 8 [portWriteAt s.bc]) s.bc 0 ula →
      SetsDevices .outC0 s
        { s.cpu with memptr := s.bc + 1, tacts := s.after 8 [portWriteAt s.bc] } ula s.tape)

/-- ini, ind, inir, indr (R413 to R416) answer a next state wherever the port answers; result, flags, stored byte and
frame. -/
def Obligations.BlockInputIteration : Prop :=
  ∀ (s : State) (up down : Byte → Nat), (up = fun v => v.toNat + (s.cpu.c.toNat + 1) % 256) →
    (down = fun v => v.toNat + (s.cpu.c.toNat + 255) % 256) →
    StoresInput .ini s 12 s.cpu.pc (s.hl + 1) (s.bc + 1) up ∧
    StoresInput .ind s 12 s.cpu.pc (s.hl - 1) (s.bc - 1) down ∧
    (s.cpu.b ≠ 1 → StoresInput .inir s 17 (s.cpu.pc - 2) (s.hl + 1) (s.bc + 1) up ∧
      StoresInput .indr s 17 (s.cpu.pc - 2) (s.hl - 1) (s.bc - 1) down) ∧
    (s.cpu.b = 1 → StoresInput .inir s 12 s.cpu.pc (s.hl + 1) (s.bc + 1) up ∧
      StoresInput .indr s 12 s.cpu.pc (s.hl - 1) (s.bc - 1) down)

/-- outi, outd, otir, otdr (R420 to R423) answer a next state wherever the port takes the byte; result, flags and
frame. -/
def Obligations.BlockOutputIteration : Prop :=
  ∀ (s : State) (port : Word) (up down : Nat), port = (s.cpu.b - 1) ++ s.cpu.c →
    up = (s.mem.read s.hl.toNat).toNat + (s.hl.toNat + 1) % 256 →
    down = (s.mem.read s.hl.toNat).toNat + (s.hl.toNat + 255) % 256 →
    SendsOutput .outi s 12 s.cpu.pc (s.hl + 1) (port + 1) port up ∧
    SendsOutput .outd s 12 s.cpu.pc (s.hl - 1) (port - 1) port down ∧
    (s.cpu.b ≠ 1 → SendsOutput .otir s 17 (s.cpu.pc - 2) (s.hl + 1) (port + 1) port up ∧
      SendsOutput .otdr s 17 (s.cpu.pc - 2) (s.hl - 1) (port - 1) port down) ∧
    (s.cpu.b = 1 → SendsOutput .otir s 12 s.cpu.pc (s.hl + 1) (port + 1) port up ∧
      SendsOutput .otdr s 12 s.cpu.pc (s.hl - 1) (port - 1) port down)

/-- AcceptNMI (60_exceptions.md R560) as the first choice of the sampling point (R554). -/
def Obligations.NmiAcceptance : Prop :=
  ∀ s : State, s.ulaTimed → s.cpu.pfx = .none → s.cpu.nmiPending = true →
    StepSets s
      { s.cpu with
        nmiPending := false, eiBlock := false, halted := false, r := refreshed s.cpu.r, iff1 := false
        sp := s.cpu.sp - 2, pc := 0x0066, memptr := 0x0066
        tacts := s.after 11 [writeAt (s.cpu.sp - 1), writeAt (s.cpu.sp - 2)] }
      (fun m => StoredWord s.mem m (s.cpu.sp - 2) s.cpu.pc)

/-- AcceptINT and the three modes (60_exceptions.md R555 to R558) under the condition of R553. -/
def Obligations.InterruptAcceptanceByMode : Prop :=
  ∀ (s : State) (c : Cpu), s.ulaTimed → s.interrupted →
    c = { s.cpu with halted := false, r := refreshed s.cpu.r, iff1 := false, iff2 := false } →
    (s.cpu.im = .im0 → StepSets s { c with tacts := s.after 6 [] } (fun m => m = s.mem)) ∧
    (s.cpu.im = .im1 → StepSets s
      { c with
        sp := s.cpu.sp - 2, pc := 0x0038, memptr := 0x0038
        tacts := s.after 13 [writeAt (s.cpu.sp - 1), writeAt (s.cpu.sp - 2)] }
      (fun m => StoredWord s.mem m (s.cpu.sp - 2) s.cpu.pc)) ∧
    (s.cpu.im = .im2 → ∃ target, StepSets s
      { c with
        sp := s.cpu.sp - 2, pc := target, memptr := target
        tacts := s.after 19 [writeAt (s.cpu.sp - 1), writeAt (s.cpu.sp - 2), readAt (s.cpu.i ++ 0xFF#8),
          readAt ((s.cpu.i ++ 0xFF#8) + 1)] }
      (fun m => StoredWord s.mem m (s.cpu.sp - 2) s.cpu.pc ∧
        target = m.read ((s.cpu.i.toNat * 256 + 256) % 65536) ++ m.read (s.cpu.i.toNat * 256 + 255)))

/-- The EI delay (60_exceptions.md R552): eiBlock is copied and cleared at the sampling point. -/
def Obligations.EiDelaysOneInstruction : Prop :=
  (∀ s t : State, exec .ei s = .next t → t.cpu.eiBlock = true) ∧
    (∀ (s : State) (i : Instr) (rest : List Byte), s.cpu.pfx = .none → s.cpu.eiBlock = true →
      s.cpu.nmiPending = false → s.cpu.halted = false →
      decode .none [s.mem.read s.cpu.pc.toNat, s.mem.read (s.cpu.pc + 1).toNat, s.mem.read (s.cpu.pc + 2).toNat] =
        .ok (i, rest) →
      (s.fetched (3 - rest.length)).cpu.eiBlock = false ∧
      ∀ t, step s = .next t → ∃ u, exec i (s.fetched (3 - rest.length)) = .next u ∧ t.cpu = u.cpu ∧ t.mem = u.mem ∧
        (behindPrefix i ≠ .ei → t.cpu.eiBlock = false)) ∧
    ∀ s t : State, s.cpu.pfx = .none → s.cpu.eiBlock = true → s.cpu.nmiPending = true → step s = .next t →
      t.cpu.nmiPending = false ∧ t.cpu.pc = 0x0066 ∧ t.cpu.eiBlock = false

/-- The halted cycle (60_exceptions.md R561). -/
def Obligations.HaltedCycleAddsFourTacts : Prop :=
  ∀ s : State, s.ulaTimed → s.cpu.pfx = .none → s.cpu.halted = true → s.quiet →
    StepSets s { s.cpu with r := refreshed s.cpu.r, tacts := s.after 4 [], eiBlock := false } (fun m => m = s.mem)

/-- Leaving HALT (60_exceptions.md R562), over every step, every instruction and every host action. -/
def Obligations.HaltLeftAtThreeEventsOnly : Prop :=
  (∀ s t : State, s.cpu.pfx = .none → s.cpu.halted = true → step s = .next t →
      (t.cpu.halted = false ↔ s.cpu.nmiPending = true ∨ s.interrupted) ∧
      (t.cpu.halted = true → t.cpu.pc = s.cpu.pc) ∧
      (s.cpu.nmiPending = true ∨ (s.interrupted ∧ s.cpu.im ≠ .im0) →
        StoredWord s.mem t.mem (s.cpu.sp - 2) s.cpu.pc) ∧
      (s.interrupted ∧ s.cpu.im = .im0 → t.cpu.pc = s.cpu.pc)) ∧
    (∀ (i : Instr) (s t : State), exec i s = .next t → s.cpu.halted = true → t.cpu.halted = true) ∧
    (∀ draw s : State, (hostReset draw s).cpu.halted = false) ∧
    ∀ (a : HostAction) (s t : State), (∀ draw, a ≠ .reset draw) → hostAct a s = .next t → t.cpu.halted = s.cpu.halted

/-- The ROM write drop (20_memory.md R82, R86), for the operation and for every step of the whole machine. -/
def Obligations.RomNeverChanges : Prop :=
  (∀ (s : State) (a : Word) (v : Byte), Stored s.mem (s.memWrite a v).mem a v) ∧
    ∀ s t : State, step s = .next t → ∀ k, k < 0x4000 → t.mem.read k = s.mem.read k

/-- The tact counter (10_state.md R47) is the single source of time: no step can stand still. -/
def Obligations.EveryStepAddsTacts : Prop :=
  (∀ s t : State, step s = .next t → s.cpu.tacts + 4 ≤ t.cpu.tacts ∧ t.env = s.env) ∧
    ∀ (a : HostAction) (s t : State), hostAct a s = .next t →
      t.cpu.tacts = match a with
        | .reset _ => 0
        | _ => s.cpu.tacts

/-- The shadow set (10_state.md R32): no instruction reads or writes a shadow register otherwise, over the whole
table. -/
def Obligations.ShadowRegistersOnlyExchanged : Prop :=
  ∀ (i : Instr) (s : State) (c : Cpu), behindPrefix i ≠ .exAfAf → behindPrefix i ≠ .exx →
    exec i (s.withShadow c) = mapNext (fun t => t.withShadow c) (exec i s) ∧
      ∀ t, exec i s = .next t → t.withShadow s.cpu = t

/-- MEMPTR is hidden state (10_state.md R44), read only by BIT b,(HL); CPI, CPD and their kin move it by one. -/
def Obligations.MemptrReadByBitHlOnly : Prop :=
  ∀ (i : Instr) (s : State) (w : Word), (∀ b, i ≠ .bitMemHl b) →
    mapNext (fun t => t.setMemptr 0) (exec i (s.setMemptr w)) = mapNext (fun t => t.setMemptr 0) (exec i s)

/-- Who writes the control registers (10_state.md R38 to R46), over the whole table. -/
def Obligations.ControlRegistersAndTheirWriters : Prop :=
  (∀ r : Byte, (refreshed r).getLsbD 7 = r.getLsbD 7) ∧
    ∀ (i : Instr) (s t : State), exec i s = .next t →
      (t.cpu.i ≠ s.cpu.i → i = .ldIA) ∧ (t.cpu.r ≠ s.cpu.r → i = .ldRA) ∧
      (t.cpu.im ≠ s.cpu.im → ∃ y, i = .im0 y ∨ i = .im0Undoc y ∨ i = .im1 y ∨ i = .im2 y) ∧
      (t.cpu.iff2 ≠ s.cpu.iff2 → behindPrefix i = .di ∨ behindPrefix i = .ei) ∧
      (t.cpu.iff1 ≠ s.cpu.iff1 → behindPrefix i = .di ∨ behindPrefix i = .ei ∨ i = .reti ∨ ∃ y, i = .retn y) ∧
      (t.cpu.halted ≠ s.cpu.halted → behindPrefix i = .halt) ∧
      (t.cpu.eiBlock ≠ s.cpu.eiBlock → behindPrefix i = .ei) ∧ t.cpu.nmiPending = s.cpu.nmiPending ∧
      (t.cpu.pfx ≠ s.cpu.pfx → i = .prefixCb ∨ i = .prefixDd ∨ i = .prefixEd ∨ i = .prefixFd ∨
        ∃ x, i = .prefixXyCb x ∨ i = .prefixDdReplaces x ∨ i = .prefixEdReplaces x ∨ i = .prefixFdReplaces x)

/-- The invariant of the machine between two steps (`State.Inv`), kept by step over all states and instructions. -/
def Obligations.StepKeepsInvariant : Prop :=
  ∀ s t : State, s.Inv → step s = .next t → t.Inv

/-- The host acts between two steps (60_exceptions.md R571); with StepKeepsInvariant the invariant holds in every
run. -/
def Obligations.HostActionsKeepInvariant : Prop :=
  ∀ (a : HostAction) (s t : State), s.Inv → (∀ draw, a = .reset draw → draw.ula.buffer.wf = true) →
    hostAct a s = .next t → t.Inv

/-- The invariant holds at reset; the values of the draws are the model's (notes/assumptions/1.md to 3.md). -/
def Obligations.ResetMeetsInvariant : Prop :=
  State.Inv State.reset

/-- Reset (70_reset_and_hazards.md R600, R602) over any RESET_DRAW, and State.reset. -/
def Obligations.ResetWritesSpecValues : Prop :=
  ∀ (draw s t : State), t = hostReset draw s ∨ t = State.reset →
    (t.cpu.pc = 0 ∧ t.cpu.i = 0 ∧ t.cpu.r = 0 ∧ t.cpu.memptr = 0 ∧ t.cpu.tacts = 0 ∧ t.cpu.iff1 = false ∧
      t.cpu.iff2 = false ∧ t.cpu.im = .im0 ∧ t.cpu.halted = false ∧ t.cpu.pfx = .none ∧ t.cpu.eiBlock = false ∧
      t.cpu.nmiPending = false) ∧
    (t.ula.frameStart = 0 ∧ t.ula.frameCount = 0 ∧ t.ula.overflow = 0 ∧ t.ula.lastRenderedTact = -1 ∧
      t.ula.flashPhase = false) ∧
    t.tape.playing = false ∧ EarAnswers t t.earIdleLevel t.tape ∧
    (t = hostReset draw s → t.mem = s.mem ∧ t.tape.blocks = s.tape.blocks ∧ t.env = s.env)

/-- No synchronous exceptions (60_exceptions.md R550) and a total decode (R566): the faults of the core are answers
to host actions, the refusal `unmappedOpcode` is unreachable. -/
def Obligations.NoFaultAndTotalDecode : Prop :=
  (∀ (i : Instr) (s : State) (e : Fault), exec i s ≠ .fault e) ∧
    (∀ (p : Pfx) (b0 b1 b2 : Byte), ∃ i rest, decode p [b0, b1, b2] = .ok (i, rest)) ∧
    (∀ (s : State) (e : Fault), step s ≠ .fault e) ∧ ∀ s : State, step s ≠ .refused .unmappedOpcode

/-- What can stop a run (60_exceptions.md R565): of all refusals only `unsupportedTapeBlock` (49_tzx.md R525). -/
def Obligations.StepsAlwaysAnswer : Prop :=
  ∀ s : State, s.Inv →
    ((∃ t, step s = .next t) ∨ ∃ id, step s = .refused (.unsupportedTapeBlock id)) ∧
    (¬(s.tape.loaded = true ∧ s.tape.playing = true) → ∃ t, step s = .next t)

/-- Frame completion (48_ula.md R443, R444, R447), whatever the number of frames the tacts span. -/
def Obligations.FramesLoseNoTact : Prop :=
  (∀ (m : Memory) (t : Nat) (v w : Ula), v.frameStart = v.frameCount * 69888 → v.frameStart ≤ t →
      w = v.completeFrames m t →
      w.frameStart = w.frameCount * 69888 ∧ w.frameStart ≤ t ∧ t < w.frameStart + 69888 ∧
      w.frameCount * 69888 + (t - w.frameStart) = t ∧ (t < v.frameStart + 69888 → w = v) ∧
      (v.frameStart + 69888 ≤ t → w.overflow = t - w.frameStart ∧ w.lastRenderedTact = -1 ∧
        w.flashPhase = decide (w.frameCount / 25 % 2 = 1)) ∧
      w.borderColour = v.borderColour ∧ w.earOut = v.earOut ∧ w.micOut = v.micOut) ∧
    (∀ (m : Memory) (f : Int) (v : Ula), (v.renderTo m f).overflow = v.overflow) ∧
    (∀ (m : Memory) (t : Nat) (x : Byte) (v : Ula), t < v.frameStart + 69888 →
      (v.writePort m t x).overflow = v.overflow) ∧ State.reset.ula.overflow = 0

/-- Border latching (48_ula.md R454) with the tact to pixel mapping of R449 written out. -/
def Obligations.BorderWriteNotRetroactive : Prop :=
  ∀ (m : Memory) (v w : Ula) (t u k row col : Nat) (x : Byte), v.frameStart ≤ t → t < v.frameStart + 69888 →
    -1 ≤ v.lastRenderedTact → v.lastRenderedTact < (t - v.frameStart : Nat) → w = v.writePort m t x →
    16 ≤ u / 224 → u / 224 < 304 → 40 ≤ u % 224 → u % 224 < 216 → k < 2 → row = u / 224 - 16 →
    col = 2 * (u % 224 - 40) + k →
    w.borderColour = x.extractLsb' 0 3 ∧
    ((u : Int) ≤ v.lastRenderedTact ∨ t - v.frameStart ≤ u → w.buffer.read row col = v.buffer.read row col) ∧
    (∀ f : Int, u < t - v.frameStart → (w.renderTo m f).buffer.read row col = w.buffer.read row col) ∧
    (¬(48 ≤ row ∧ row < 240 ∧ 48 ≤ col ∧ col < 304) →
      (v.lastRenderedTact < (u : Int) → u < t - v.frameStart →
        w.buffer.read row col = v.borderColour.setWidth 4) ∧
      ∀ f : Int, t - v.frameStart ≤ u → (u : Int) ≤ f →
        (w.renderTo m f).buffer.read row col = (x.extractLsb' 0 3).setWidth 4)

/-- Cell latching and attribute decoding (48_ula.md R452) at the addresses of R451. The display file (48_ula.md
R451): the rule's OR, its range, and injectivity. -/
def Obligations.DisplayCells : Prop :=
  (∀ (m m1 m2 m3 : Memory) (v : Ula) (u c y j : Nat) (px attr : Byte), c < 32 → y < 192 → j < 8 →
    u = (64 + y) * 224 + 64 + 4 * c →
    px = m.read (0x4000 + y / 64 * 2048 + y % 8 * 256 + y / 8 % 8 * 32 + c) →
    attr = m.read (0x5800 + y / 8 * 32 + c) →
    (((((v.paint m u).paint m1 (u + 1)).paint m2 (u + 2)).paint m3 (u + 3)).buffer.read (48 + y)
        (48 + 8 * c + j)).toNat =
      (if (px.getLsbD (7 - j) != (attr.getLsbD 7 && v.flashPhase)) = true then attr.toNat % 8
        else attr.toNat / 8 % 8) + 8 * (attr.toNat / 64 % 2)) ∧
  (∀ x y x' y' : Nat, x < 256 → y < 192 → x' < 256 → y' < 192 →
    pixelAddress x y = (0x4000 ||| (y / 64) <<< 11 ||| (y % 8) <<< 8 ||| (y / 8 % 8) <<< 5 ||| x / 8) ∧
    0x4000 ≤ pixelAddress x y ∧ pixelAddress x y ≤ 0x57FF ∧ attrAddress x y = 0x5800 + y / 8 * 32 + x / 8 ∧
    attrAddress x y ≤ 0x5AFF ∧ (pixelAddress x y = pixelAddress x' y' → x / 8 = x' / 8 ∧ y = y'))

/-- The ULA port read (48_ula.md R458), key lines stated row by row. FLOATING_BUS (20_memory.md R90): on the 48K no
device answers an odd port (48_ula.md R456). -/
def Obligations.PortsAnswer : Prop :=
  (∀ (s : State) (p : Word) (ear : Bool) (tape : Tape), p.getLsbD 0 = false → s.ula.timeOk s.cpu.tacts = true →
    (s.tape.loaded = true ∧ s.tape.playing = true → s.tape.getEarBit s.cpu.tacts = .next (ear, tape)) →
    (¬(s.tape.loaded = true ∧ s.tape.playing = true) → ear = s.earIdleLevel ∧ tape = s.tape) →
    ∃ v, portRead p s = .next (v, { s with tape := tape }) ∧ v.getLsbD 7 = true ∧ v.getLsbD 6 = ear ∧
      v.getLsbD 5 = true ∧
      (∀ i, i < 5 → (v.getLsbD i = true ↔
        ∀ j, j < 8 → p.getLsbD (8 + j) = false → (keyRow s.env.keyboard j).getLsbD i = true)) ∧
      (s.env.keyboard = Keyboard.idle → v.extractLsb' 0 5 = 0x1F)) ∧
  (∀ (s : State) (p : Word) (v : Byte), p.getLsbD 0 = true →
    portRead p s = .next (0xFF, s) ∧ portWrite p v s = .next s)

/-- Pilot and Sync (49_tzx.md R516, R517) of both playable data blocks. Pause, completion and milliseconds (R519,
R520, R526, R527). The BitMask 0x80 that the pause clause gives a 0x20 block too is the model's choice (DESIGN
CHOICE, notes/assumptions/21.md). -/
def Obligations.PilotSyncPauseLevels : Prop :=
  (∀ (b : TzxBlock) (tl : Timeline) (count length s1 s2 pos : Nat), b.timeline = some tl →
    ((∃ pause data, b = .standardSpeed pause data ∧ length = 2168 ∧ s1 = 667 ∧ s2 = 735 ∧
        (count = 3223 ∧ (∃ flag rest, data = flag :: rest ∧ 0x80 ≤ flag.toNat) ∨
          count = 8063 ∧ ¬∃ flag rest, data = flag :: rest ∧ 0x80 ≤ flag.toNat)) ∨
      ∃ b0 b1 used pause data, b = .turboSpeed (BitVec.ofNat 16 length) (BitVec.ofNat 16 s1) (BitVec.ofNat 16 s2) b0 b1
        (BitVec.ofNat 16 count) used pause data ∧ length < 65536 ∧ s1 < 65536 ∧ s2 < 65536 ∧ count < 65536) →
    (pos < count * length → tl.at pos = ⟨decide (pos / length % 2 = 0), .pilot, 0, 0x80⟩) ∧
    (count * length ≤ pos → pos < count * length + s1 → tl.at pos = ⟨false, .sync, 0, 0x80⟩) ∧
    (count * length + s1 ≤ pos → pos < count * length + s1 + s2 → tl.at pos = ⟨true, .sync, 0, 0x80⟩)) ∧
  ((∀ (tl : Timeline) (pos : Nat), tl.dataEnd ≤ pos →
      (pos < tl.duration → tl.at pos = ⟨true, .pause, tl.byteCount, 0x80⟩) ∧
      (tl.duration ≤ pos → (tl.at pos).phase = .completed)) ∧
    (∀ (b : TzxBlock) (tl : Timeline) (pause : Word) (data : List Byte), b.timeline = some tl →
      (b = .standardSpeed pause data ∨
        ∃ p s1 s2 b0 b1 tone used, b = .turboSpeed p s1 s2 b0 b1 tone used pause data) →
      tl.duration = tl.dataEnd + pause.toNat * 3500 ∧ tl.byteCount = data.length) ∧
    ∀ (d : Word) (tl : Timeline) (pos : Nat), (TzxBlock.pause d).timeline = some tl → tl.duration = d.toNat * 3500 ∧
      (pos < tl.duration → (tl.at pos).phase = .pause ∧ (tl.at pos).level = true))

/-- The Data phase (49_tzx.md R518): the k-th of the bits a timeline sends, and for each playable data block where
its data start, its half-lengths and which bits are sent. -/
def Obligations.DataBitLevels : Prop :=
  (∀ (tl : Timeline) (k start : Nat) (bit : Bool) (pos : Nat), tl.bits[k]? = some bit →
      start = tl.syncEnd + ((tl.bits.take k).map fun b => 2 * (if b = true then tl.bit1 else tl.bit0)).sum →
      start ≤ pos → pos < start + 2 * (if bit = true then tl.bit1 else tl.bit0) →
      tl.at pos =
        ⟨decide (start + (if bit = true then tl.bit1 else tl.bit0) ≤ pos), .data, k / 8, 0x80#8 >>> (k % 8)⟩) ∧
    (∀ (tl : Timeline), tl.dataEnd =
      tl.syncEnd + (tl.bits.map fun b => 2 * (if b = true then tl.bit1 else tl.bit0)).sum) ∧
    ∀ (b : TzxBlock) (data : List Byte) (used half0 half1 syncEnd : Nat),
      ((∃ pause, b = .standardSpeed pause data ∧ used = 8 ∧ half0 = 855 ∧ half1 = 1710 ∧
          syncEnd = (if 0x80 ≤ (data.headD 0).toNat then 3223 else 8063) * 2168 + 667 + 735) ∨
        ∃ p s1 s2 b0 b1 tone u pause, b = .turboSpeed p s1 s2 b0 b1 tone u pause data ∧ used = u.toNat ∧
          1 ≤ used ∧ used ≤ 8 ∧ half0 = b0.toNat ∧ half1 = b1.toNat ∧
          syncEnd = tone.toNat * p.toNat + s1.toNat + s2.toNat) →
      ∃ tl, b.timeline = some tl ∧ tl.bit0 = half0 ∧ tl.bit1 = half1 ∧ tl.syncEnd = syncEnd ∧
        tl.bits.length = (if data = [] then 0 else 8 * data.length - (8 - used)) ∧
        ∀ k, k < tl.bits.length → ∃ byte, data[k / 8]? = some byte ∧ tl.bits[k]? = some (byte.getLsbD (7 - k % 8))

/-- The playback classes (49_tzx.md R510) of what the decoder gives; NextBlock (R522, R514) and the player's refusal
(R525); InitPlay (R513) with the source's scenario in general form. That a 0x11 block with an empty pilot starts in
the phase of position 0, not in Pilot, is the model's reading (DEDUCED, notes/assumptions/22.md). The tact that
GetEarBit passes to NextBlock is QueryPassesFinishedBlocks. -/
def Obligations.BlocksStartInOrder : Prop :=
  (∀ (id : Byte) (body : List Byte),
    id.toNat ∈ [0x10, 0x11, 0x12, 0x13, 0x14, 0x15, 0x16, 0x17, 0x18, 0x19, 0x20, 0x21, 0x22, 0x23, 0x24, 0x25, 0x26,
      0x27, 0x28, 0x2A, 0x2B, 0x30, 0x31, 0x32, 0x33, 0x34, 0x35, 0x40, 0x5A] →
    (decodeTapeBlock id body).id = id ∧
    ((decodeTapeBlock id body).playback = .playable ↔
      id.toNat ∈ [0x10, 0x11] ∨ id = 0x20 ∧ ¬(body.getD 0 0 = 0 ∧ body.getD 1 0 = 0)) ∧
    ((decodeTapeBlock id body).playback = .skipped ↔
      id.toNat ∈ [0x21, 0x22, 0x30, 0x31, 0x32, 0x33, 0x35, 0x5A, 0x16, 0x17, 0x34, 0x40]) ∧
    ((decodeTapeBlock id body).playback = .refused ↔
      id.toNat ∈ [0x12, 0x13, 0x14, 0x15, 0x18, 0x19, 0x23, 0x24, 0x25, 0x26, 0x27, 0x28, 0x2A, 0x2B] ∨
        id = 0x20 ∧ body.getD 0 0 = 0 ∧ body.getD 1 0 = 0)) ∧
  (∀ (p : Tape) (s : Nat) (before skipped : List TzxBlock), p.currentBlockIndex + 1 = (before.length : Int) →
    (∀ b ∈ skipped, b.playback = .skipped) →
    (p.blocks = before ++ skipped → Tape.nextBlock s p = .next { p with playPhase := .completed, currentBlock := none }) ∧
    ∀ (b : TzxBlock) (rest : List TzxBlock), p.blocks = before ++ skipped ++ b :: rest →
      (b.playback = .refused → Tape.nextBlock s p = .refused (.unsupportedTapeBlock b.id)) ∧
      (∀ pilot s1 s2 b0 b1 tone used pause data, b = .turboSpeed pilot s1 s2 b0 b1 tone used pause data →
        used.toNat = 0 ∨ 8 < used.toNat → Tape.nextBlock s p = .refused (.unsupportedTapeBlock 0x11)) ∧
      (b.playback = .playable →
        (∀ pilot s1 s2 b0 b1 tone used pause data, b = .turboSpeed pilot s1 s2 b0 b1 tone used pause data →
          1 ≤ used.toNat ∧ used.toNat ≤ 8) → ∃ tl, b.timeline = some tl ∧
        Tape.nextBlock s p = .next { p with
          currentBlockIndex := (before.length + skipped.length : Nat), currentBlock := some b, blockStart := s
          blockPhase := (tl.at 0).phase, byteIndex := 0, bitMask := 0x80 })) ∧
  (∀ (p : Tape) (t : Nat) (skipped : List TzxBlock), (∀ b ∈ skipped, b.playback = .skipped) →
    p.initPlay t =
      Tape.nextBlock t
        { p with playing := true, playPhase := .none, currentBlockIndex := -1, currentBlock := none, lastQueryTact := t } ∧
    (p.blocks = skipped → ∃ q, p.initPlay t = .next q ∧ q.playPhase = .completed ∧ q.currentBlockIndex = -1 ∧
      q.currentBlock = none ∧ q.lastQueryTact = t) ∧
    ∀ (pause : Word) (data : List Byte) (rest : List TzxBlock),
      p.blocks = skipped ++ .standardSpeed pause data :: rest →
      ∃ q, p.initPlay t = .next q ∧ q.playPhase = .none ∧ q.currentBlockIndex = (skipped.length : Nat) ∧
        q.currentBlock = some (.standardSpeed pause data) ∧ q.blockPhase = .pilot ∧ q.byteIndex = 0 ∧
        q.bitMask = 0x80 ∧ q.blockStart = t ∧ q.lastQueryTact = t ∧ q.blocks = p.blocks ∧ q.playing = true)

/-- The loop of GetEarBit (49_tzx.md R521), one turn at a time; so it passes over any number of finished blocks. -/
def Obligations.QueryPassesFinishedBlocks : Prop :=
  ∀ (p : Tape) (t : Nat),
    (t < p.lastQueryTact → p.getEarBit t = .refused .tapeTimeReversed) ∧
    (p.lastQueryTact ≤ t → p.playPhase = .completed → ∃ q, p.getEarBit t = .next (true, q) ∧
      q = { p with lastQueryTact := q.lastQueryTact }) ∧
    ∀ (b : TzxBlock) (tl : Timeline), p.lastQueryTact ≤ t → p.playPhase ≠ .completed → p.currentBlock = some b →
      b.timeline = some tl →
      (t < p.blockStart + tl.duration →
        p.getEarBit t = .next ((tl.at (t - p.blockStart)).level, { p with
          lastQueryTact := t, blockPhase := (tl.at (t - p.blockStart)).phase
          byteIndex := (tl.at (t - p.blockStart)).byteIndex, bitMask := (tl.at (t - p.blockStart)).bitMask })) ∧
      (p.blockStart + tl.duration ≤ t →
        p.getEarBit t =
          andThen (Tape.nextBlock (p.blockStart + tl.duration) { p with lastQueryTact := t, blockPhase := .completed })
            (Tape.getEarBit t))

/-- Idempotence and path independence (49_tzx.md R523), for every player state, reached or not. That a completed
player's lastQueryTact moves, so that it too refuses an earlier query, and that its ByteIndex and BitMask keep the
values of the last query before, is the model's reading of R521 beside R524 (DEDUCED, notes/assumptions/19.md). -/
def Obligations.EarLevelIsFunctionOfTact : Prop :=
  (∀ (p q : Tape) (t : Nat) (b : Bool), p.getEarBit t = .next (b, q) →
      q.getEarBit t = .next (b, q) ∧ ∀ u, u < t → q.getEarBit u = .refused .tapeTimeReversed) ∧
    ∀ (p q r : Tape) (t1 t2 : Nat) (b1 b2 : Bool), t1 ≤ t2 → p.getEarBit t1 = .next (b1, q) →
      q.getEarBit t2 = .next (b2, r) →
      ∃ r', p.getEarBit t2 = .next (b2, r') ∧ r' = { r with byteIndex := r'.byteIndex, bitMask := r'.bitMask } ∧
        (r.playPhase ≠ .completed → r' = r) ∧
        (p.playPhase ≠ .completed → r.playPhase = .completed → r'.currentBlock = none ∧ r'.blockPhase = .completed)

/-- The TZX decoder (49_tzx.md R490 to R509) on files of blocks in the layouts `TzxBlock.LaidOut` writes out. These
take in blocks 0x28, 0x2A, 0x2B and 0x32 with bytes beyond their fields; that the decoder keeps those bytes as the
block's rest is the model's choice (DESIGN CHOICE, notes/assumptions/15.md). That a file that fails unloads the tape
loaded before, and what the fields of no tape hold, is the model's choice (DESIGN CHOICE, notes/assumptions/13.md,
14.md); R565 gives only that the tape is unloaded. -/
def Obligations.TapeFilesReadOrFail : Prop :=
  (∀ file : List Byte,
      (file.length < 10 ∨ file.take 8 ≠ [0x5A, 0x58, 0x54, 0x61, 0x70, 0x65, 0x21, 0x1A]) →
      readContent file = .error .badHeader) ∧
    (∀ (major minor : Byte) (list : List (TzxBlock × List Byte)) (file : List Byte),
      (∀ x ∈ list, x.1.LaidOut x.2) →
      file = [0x5A, 0x58, 0x54, 0x61, 0x70, 0x65, 0x21, 0x1A, major, minor] ++ list.flatMap (fun x => x.2) →
      readContent file = .ok (list.map fun x => x.1) ∧
      (∀ (id : Byte) (rest : List Byte),
        id.toNat ∉ [0x10, 0x11, 0x12, 0x13, 0x14, 0x15, 0x16, 0x17, 0x18, 0x19, 0x20, 0x21, 0x22, 0x23, 0x24, 0x25,
          0x26, 0x27, 0x28, 0x2A, 0x2B, 0x30, 0x31, 0x32, 0x33, 0x34, 0x35, 0x40, 0x5A] →
        readContent (file ++ id :: rest) = .error (.unknownBlock id file.length)) ∧
      (∀ (b : TzxBlock) (bytes : List Byte) (k : Nat), b.LaidOut bytes → 0 < k → k < bytes.length →
        readContent (file ++ bytes.take k) = .error (.truncated b.id file.length))) ∧
    ∀ (file : List Byte) (s : State) (e : TapeFormatError), readContent file = .error e →
      (loadTape file s).1 = .fault (.tapeFormat e) ∧ (loadTape file s).2 = { s with tape := Tape.empty }

/-- Construction (70_reset_and_hazards.md R604) and the reset state it gives (60_exceptions.md R571, R600). The form
of the configuration record is the model's (DESIGN CHOICE, notes/assumptions/18.md), and so are the values
State.reset has where R50 leaves a draw: registers, unwritten RAM and the ULA's fields (DESIGN CHOICE,
notes/assumptions/1.md to 3.md), and for the open parameters and the keyboard (4.md to 7.md). -/
def Obligations.ConstructionChecksConfiguration : Prop :=
  ∀ c : Configuration,
    ((∃ e, construct c = .fault (.configuration e)) ↔
      c.installedRomPages ≤ c.romPage ∨ (∃ k ∈ c.ramBanks, c.installedRamBanks ≤ k) ∨ c.romImage = none ∨
        ∃ image, c.romImage = some image ∧ image.length ≠ 16384) ∧
    ∀ image, c.romPage < c.installedRomPages → (∀ k ∈ c.ramBanks, k < c.installedRamBanks) →
      c.romImage = some image → image.length = 16384 →
      ∃ s, construct c = .next s ∧ s.cpu = State.reset.cpu ∧ s.ula = State.reset.ula ∧ s.tape = State.reset.tape ∧
        s.env = State.reset.env ∧ ∀ k, s.mem.read k = if h : k < image.length then image[k] else State.reset.mem.read k
end

