-- ==== Sys2Proof/Laws/Cells.lean ====
section
/-! SUPPORT. The laws of the sparse maps: a read after a write, that every other key reads as before, that each operation
keeps the canonical form, and that maps in canonical form that read alike are equal. -/

namespace Sys2Proof.Machine

variable {α : Type}

theorem Cells.get_insert (u : α) (k : Nat) (v : α) (cells : List (Nat × α)) (k' : Nat) :
    Cells.get u (Cells.insert k v cells) k' = if k' = k then v else Cells.get u cells k' := by
  induction cells with
  | nil => simp [Cells.insert, Cells.get]
  | cons p rest ih =>
    obtain ⟨j, w⟩ := p
    simp only [Cells.insert]
    split
    · simp [Cells.get]
    · split
      · subst j
        by_cases h : k' = k <;> simp [Cells.get, h]
      · simp only [Cells.get, ih]
        by_cases h : k' = j <;> by_cases h' : k' = k <;> simp_all

theorem Cells.get_erase (u : α) (k : Nat) (cells : List (Nat × α)) (k' : Nat) :
    Cells.get u (Cells.erase k cells) k' = if k' = k then u else Cells.get u cells k' := by
  induction cells with
  | nil => simp [Cells.erase, Cells.get]
  | cons p rest ih =>
    obtain ⟨j, w⟩ := p
    simp only [Cells.erase]
    split
    · subst j
      rw [ih]
      by_cases h : k' = k <;> simp [Cells.get, h]
    · simp only [Cells.get, ih]
      by_cases h : k' = j <;> by_cases h' : k' = k <;> simp_all

/-- A read after a write: the value at the key written, what was there at every other key. -/
theorem Cells.get_set [DecidableEq α] (u : α) (k : Nat) (v : α) (cells : List (Nat × α)) (k' : Nat) :
    Cells.get u (Cells.set u k v cells) k' = if k' = k then v else Cells.get u cells k' := by
  unfold Cells.set
  split
  · subst v
    exact Cells.get_erase u k cells k'
  · exact Cells.get_insert u k v cells k'

theorem Cells.above_mono {j k : Nat} (hjk : j < k) {cells : List (Nat × α)} (h : Cells.above k cells = true) :
    Cells.above j cells = true := by
  induction cells with
  | nil => rfl
  | cons p rest ih =>
    simp only [Cells.above, Bool.and_eq_true, decide_eq_true_eq] at h ⊢
    exact ⟨by omega, ih h.2⟩

theorem Cells.above_insert {j k : Nat} (v : α) (hjk : j < k) {cells : List (Nat × α)} (h : Cells.above j cells = true) :
    Cells.above j (Cells.insert k v cells) = true := by
  induction cells with
  | nil => simp [Cells.insert, Cells.above, hjk]
  | cons p rest ih =>
    obtain ⟨i, w⟩ := p
    simp only [Cells.above, Bool.and_eq_true, decide_eq_true_eq] at h
    simp only [Cells.insert]
    split
    · simp [Cells.above, h, hjk]
    · split
      · simp [Cells.above, h, hjk]
      · simp [Cells.above, h, ih h.2]

theorem Cells.above_erase {j : Nat} (k : Nat) {cells : List (Nat × α)} (h : Cells.above j cells = true) :
    Cells.above j (Cells.erase k cells) = true := by
  induction cells with
  | nil => rfl
  | cons p rest ih =>
    simp only [Cells.above, Bool.and_eq_true, decide_eq_true_eq] at h
    simp only [Cells.erase]
    split
    · exact ih h.2
    · simp [Cells.above, h, ih h.2]

variable [DecidableEq α]

theorem Cells.wf_insert {u : α} {size k : Nat} {v : α} (hk : k < size) (hv : v ≠ u) {cells : List (Nat × α)}
    (h : Cells.wf u size cells = true) : Cells.wf u size (Cells.insert k v cells) = true := by
  induction cells with
  | nil => simp [Cells.insert, Cells.wf, Cells.above, hk, hv]
  | cons p rest ih =>
    obtain ⟨i, w⟩ := p
    simp only [Cells.wf, Bool.and_eq_true, decide_eq_true_eq] at h
    obtain ⟨⟨⟨hi, hw⟩, ha⟩, hr⟩ := h
    simp only [Cells.insert]
    split
    · rename_i hlt
      simp [Cells.wf, Cells.above, *, Cells.above_mono hlt ha]
    · split
      · subst i
        simp [Cells.wf, *]
      · simp [Cells.wf, *, Cells.above_insert v (show i < k by omega) ha]

theorem Cells.wf_erase {u : α} {size : Nat} (k : Nat) {cells : List (Nat × α)} (h : Cells.wf u size cells = true) :
    Cells.wf u size (Cells.erase k cells) = true := by
  induction cells with
  | nil => rfl
  | cons p rest ih =>
    simp only [Cells.wf, Bool.and_eq_true, decide_eq_true_eq] at h
    obtain ⟨⟨⟨hi, hw⟩, ha⟩, hr⟩ := h
    simp only [Cells.erase]
    split
    · exact ih hr
    · simp [Cells.wf, *, Cells.above_erase k ha]

/-- A write inside the address range keeps the canonical form. -/
theorem Cells.wf_set {u : α} {size k : Nat} (v : α) (hk : k < size) {cells : List (Nat × α)}
    (h : Cells.wf u size cells = true) : Cells.wf u size (Cells.set u k v cells) = true := by
  unfold Cells.set
  split
  · exact Cells.wf_erase k h
  · exact Cells.wf_insert hk ‹_› h

omit [DecidableEq α] in
theorem Cells.get_of_above {u : α} {k j : Nat} {cells : List (Nat × α)} (h : Cells.above k cells = true)
    (hj : j ≤ k) : Cells.get u cells j = u := by
  induction cells with
  | nil => rfl
  | cons p rest ih =>
    simp only [Cells.above, Bool.and_eq_true, decide_eq_true_eq] at h
    simp only [Cells.get]
    rw [if_neg (by omega)]
    exact ih h.2

/-- Two maps in canonical form that read alike at every key are the same data. -/
theorem Cells.ext_of_wf {u : α} {size : Nat} {xs ys : List (Nat × α)} (hx : Cells.wf u size xs = true)
    (hy : Cells.wf u size ys = true) (h : ∀ k, Cells.get u xs k = Cells.get u ys k) : xs = ys := by
  induction xs generalizing ys with
  | nil =>
    cases ys with
    | nil => rfl
    | cons p rest =>
      obtain ⟨k, v⟩ := p
      simp only [Cells.wf, Bool.and_eq_true, decide_eq_true_eq] at hy
      have := h k
      simp only [Cells.get, if_true] at this
      exact absurd this.symm hy.1.1.2
  | cons p rest ih =>
    obtain ⟨k, v⟩ := p
    have hx' := hx
    simp only [Cells.wf, Bool.and_eq_true, decide_eq_true_eq] at hx
    cases ys with
    | nil =>
      have := h k
      simp only [Cells.get, if_true] at this
      exact absurd this hx.1.1.2
    | cons q rest' =>
      obtain ⟨k', v'⟩ := q
      simp only [Cells.wf, Bool.and_eq_true, decide_eq_true_eq] at hy
      have hkk : k = k' := by
        by_contra hne
        rcases Nat.lt_or_gt_of_ne hne with hlt | hlt
        · have h1 := h k
          simp only [Cells.get, if_true, if_neg hne] at h1
          rw [Cells.get_of_above hy.1.2 (by omega)] at h1
          exact hx.1.1.2 h1
        · have h1 := h k'
          simp only [Cells.get, if_true, if_neg (Ne.symm hne)] at h1
          rw [Cells.get_of_above hx.1.2 (by omega)] at h1
          exact hy.1.1.2 h1.symm
      subst k'
      have hv : v = v' := by simpa [Cells.get] using h k
      subst v'
      congr 1
      refine ih hx.2 hy.2 fun j => ?_
      by_cases hj : j = k
      · subst j
        rw [Cells.get_of_above hx.1.2 (Nat.le_refl k), Cells.get_of_above hy.1.2 (Nat.le_refl k)]
      · simpa [Cells.get, hj] using h j

/-! ### Memory and the pixel buffer -/

/-- A read after a store of one byte of memory. -/
theorem Memory.read_store (m : Memory) (a : Nat) (v : Byte) (k : Nat) :
    (m.store a v).read k = if k = a then v else m.read k := Cells.get_set _ a v m k

/-- A store at a 16-bit address keeps memory's canonical form. -/
theorem Memory.wf_store {m : Memory} (a : Word) (v : Byte) (h : m.wf = true) : (m.store a.toNat v).wf = true :=
  Cells.wf_set v a.isLt h

/-- Memories in canonical form that read alike are equal. -/
theorem Memory.ext_of_wf {m m' : Memory} (h : m.wf = true) (h' : m'.wf = true) (hr : ∀ k, m.read k = m'.read k) :
    m = m' := Cells.ext_of_wf h h' hr

/-- A read after a store of one pixel, both columns inside the row. -/
theorem PixelBuffer.read_store (b : PixelBuffer) {row col row' col' : Nat} (v : Colour) (hc : col < screenWidth)
    (hc' : col' < screenWidth) :
    (b.store row col v).read row' col' = if row' = row ∧ col' = col then v else b.read row' col' := by
  unfold PixelBuffer.store PixelBuffer.read
  rw [Cells.get_set]
  have key : row' * screenWidth + col' = row * screenWidth + col ↔ row' = row ∧ col' = col := by
    simp only [screenWidth, visibleLineTime, borderLeftTime, displayLineTime, borderRightTime] at *
    omega
  simp only [key]

/-- A store of a pixel of the screen keeps the buffer's canonical form. -/
theorem PixelBuffer.wf_store {b : PixelBuffer} {row col : Nat} (v : Colour) (hr : row < screenLines)
    (hc : col < screenWidth) (h : b.wf = true) : (b.store row col v).wf = true := by
  refine Cells.wf_set v ?_ h
  simp only [screenLines, screenWidth, borderTopLines, displayLines, borderBottomLines, visibleLineTime, borderLeftTime,
    displayLineTime, borderRightTime] at *
  omega

end Sys2Proof.Machine
end

