-- ==== Sys2Proof/Laws/State.lean ====
section
/-! SUPPORT. One lemma per field of State for each named update, true by computation, so that no proof unfolds a record
update; and what the updates leave of the values other operations read. -/

namespace Sys2Proof.Machine

/-! ### setA -/

@[simp] theorem State.setA_cpu (s : State) (v : Byte) : (s.setA v).cpu = { s.cpu with a := v } := rfl
@[simp] theorem State.setA_mem (s : State) (v : Byte) : (s.setA v).mem = s.mem := rfl
@[simp] theorem State.setA_ula (s : State) (v : Byte) : (s.setA v).ula = s.ula := rfl
@[simp] theorem State.setA_tape (s : State) (v : Byte) : (s.setA v).tape = s.tape := rfl
@[simp] theorem State.setA_env (s : State) (v : Byte) : (s.setA v).env = s.env := rfl

/-! ### setF -/

@[simp] theorem State.setF_cpu (s : State) (v : Byte) : (s.setF v).cpu = { s.cpu with f := v } := rfl
@[simp] theorem State.setF_mem (s : State) (v : Byte) : (s.setF v).mem = s.mem := rfl
@[simp] theorem State.setF_ula (s : State) (v : Byte) : (s.setF v).ula = s.ula := rfl
@[simp] theorem State.setF_tape (s : State) (v : Byte) : (s.setF v).tape = s.tape := rfl
@[simp] theorem State.setF_env (s : State) (v : Byte) : (s.setF v).env = s.env := rfl

/-! ### setReg -/

@[simp] theorem State.setReg_cpu (s : State) (r : Reg8) (v : Byte) : (s.setReg r v).cpu = s.cpu.setReg r v := rfl
@[simp] theorem State.setReg_mem (s : State) (r : Reg8) (v : Byte) : (s.setReg r v).mem = s.mem := rfl
@[simp] theorem State.setReg_ula (s : State) (r : Reg8) (v : Byte) : (s.setReg r v).ula = s.ula := rfl
@[simp] theorem State.setReg_tape (s : State) (r : Reg8) (v : Byte) : (s.setReg r v).tape = s.tape := rfl
@[simp] theorem State.setReg_env (s : State) (r : Reg8) (v : Byte) : (s.setReg r v).env = s.env := rfl

/-! ### setBc -/

@[simp] theorem State.setBc_cpu (s : State) (v : Word) : (s.setBc v).cpu = { s.cpu with b := highByte v, c := lowByte v } := rfl
@[simp] theorem State.setBc_mem (s : State) (v : Word) : (s.setBc v).mem = s.mem := rfl
@[simp] theorem State.setBc_ula (s : State) (v : Word) : (s.setBc v).ula = s.ula := rfl
@[simp] theorem State.setBc_tape (s : State) (v : Word) : (s.setBc v).tape = s.tape := rfl
@[simp] theorem State.setBc_env (s : State) (v : Word) : (s.setBc v).env = s.env := rfl

/-! ### setDe -/

@[simp] theorem State.setDe_cpu (s : State) (v : Word) : (s.setDe v).cpu = { s.cpu with d := highByte v, e := lowByte v } := rfl
@[simp] theorem State.setDe_mem (s : State) (v : Word) : (s.setDe v).mem = s.mem := rfl
@[simp] theorem State.setDe_ula (s : State) (v : Word) : (s.setDe v).ula = s.ula := rfl
@[simp] theorem State.setDe_tape (s : State) (v : Word) : (s.setDe v).tape = s.tape := rfl
@[simp] theorem State.setDe_env (s : State) (v : Word) : (s.setDe v).env = s.env := rfl

/-! ### setHl -/

@[simp] theorem State.setHl_cpu (s : State) (v : Word) : (s.setHl v).cpu = { s.cpu with h := highByte v, l := lowByte v } := rfl
@[simp] theorem State.setHl_mem (s : State) (v : Word) : (s.setHl v).mem = s.mem := rfl
@[simp] theorem State.setHl_ula (s : State) (v : Word) : (s.setHl v).ula = s.ula := rfl
@[simp] theorem State.setHl_tape (s : State) (v : Word) : (s.setHl v).tape = s.tape := rfl
@[simp] theorem State.setHl_env (s : State) (v : Word) : (s.setHl v).env = s.env := rfl

/-! ### setAf -/

@[simp] theorem State.setAf_cpu (s : State) (v : Word) : (s.setAf v).cpu = { s.cpu with a := highByte v, f := lowByte v } := rfl
@[simp] theorem State.setAf_mem (s : State) (v : Word) : (s.setAf v).mem = s.mem := rfl
@[simp] theorem State.setAf_ula (s : State) (v : Word) : (s.setAf v).ula = s.ula := rfl
@[simp] theorem State.setAf_tape (s : State) (v : Word) : (s.setAf v).tape = s.tape := rfl
@[simp] theorem State.setAf_env (s : State) (v : Word) : (s.setAf v).env = s.env := rfl

/-! ### setSp -/

@[simp] theorem State.setSp_cpu (s : State) (v : Word) : (s.setSp v).cpu = { s.cpu with sp := v } := rfl
@[simp] theorem State.setSp_mem (s : State) (v : Word) : (s.setSp v).mem = s.mem := rfl
@[simp] theorem State.setSp_ula (s : State) (v : Word) : (s.setSp v).ula = s.ula := rfl
@[simp] theorem State.setSp_tape (s : State) (v : Word) : (s.setSp v).tape = s.tape := rfl
@[simp] theorem State.setSp_env (s : State) (v : Word) : (s.setSp v).env = s.env := rfl

/-! ### setPc -/

@[simp] theorem State.setPc_cpu (s : State) (v : Word) : (s.setPc v).cpu = { s.cpu with pc := v } := rfl
@[simp] theorem State.setPc_mem (s : State) (v : Word) : (s.setPc v).mem = s.mem := rfl
@[simp] theorem State.setPc_ula (s : State) (v : Word) : (s.setPc v).ula = s.ula := rfl
@[simp] theorem State.setPc_tape (s : State) (v : Word) : (s.setPc v).tape = s.tape := rfl
@[simp] theorem State.setPc_env (s : State) (v : Word) : (s.setPc v).env = s.env := rfl

/-! ### setI -/

@[simp] theorem State.setI_cpu (s : State) (v : Byte) : (s.setI v).cpu = { s.cpu with i := v } := rfl
@[simp] theorem State.setI_mem (s : State) (v : Byte) : (s.setI v).mem = s.mem := rfl
@[simp] theorem State.setI_ula (s : State) (v : Byte) : (s.setI v).ula = s.ula := rfl
@[simp] theorem State.setI_tape (s : State) (v : Byte) : (s.setI v).tape = s.tape := rfl
@[simp] theorem State.setI_env (s : State) (v : Byte) : (s.setI v).env = s.env := rfl

/-! ### setR -/

@[simp] theorem State.setR_cpu (s : State) (v : Byte) : (s.setR v).cpu = { s.cpu with r := v } := rfl
@[simp] theorem State.setR_mem (s : State) (v : Byte) : (s.setR v).mem = s.mem := rfl
@[simp] theorem State.setR_ula (s : State) (v : Byte) : (s.setR v).ula = s.ula := rfl
@[simp] theorem State.setR_tape (s : State) (v : Byte) : (s.setR v).tape = s.tape := rfl
@[simp] theorem State.setR_env (s : State) (v : Byte) : (s.setR v).env = s.env := rfl

/-! ### setMemptr -/

@[simp] theorem State.setMemptr_cpu (s : State) (v : Word) : (s.setMemptr v).cpu = { s.cpu with memptr := v } := rfl
@[simp] theorem State.setMemptr_mem (s : State) (v : Word) : (s.setMemptr v).mem = s.mem := rfl
@[simp] theorem State.setMemptr_ula (s : State) (v : Word) : (s.setMemptr v).ula = s.ula := rfl
@[simp] theorem State.setMemptr_tape (s : State) (v : Word) : (s.setMemptr v).tape = s.tape := rfl
@[simp] theorem State.setMemptr_env (s : State) (v : Word) : (s.setMemptr v).env = s.env := rfl

/-! ### setPfx -/

@[simp] theorem State.setPfx_cpu (s : State) (p : Pfx) : (s.setPfx p).cpu = { s.cpu with pfx := p } := rfl
@[simp] theorem State.setPfx_mem (s : State) (p : Pfx) : (s.setPfx p).mem = s.mem := rfl
@[simp] theorem State.setPfx_ula (s : State) (p : Pfx) : (s.setPfx p).ula = s.ula := rfl
@[simp] theorem State.setPfx_tape (s : State) (p : Pfx) : (s.setPfx p).tape = s.tape := rfl
@[simp] theorem State.setPfx_env (s : State) (p : Pfx) : (s.setPfx p).env = s.env := rfl

/-! ### setIff -/

@[simp] theorem State.setIff_cpu (s : State) (i j : Bool) : (s.setIff i j).cpu = { s.cpu with iff1 := i, iff2 := j } := rfl
@[simp] theorem State.setIff_mem (s : State) (i j : Bool) : (s.setIff i j).mem = s.mem := rfl
@[simp] theorem State.setIff_ula (s : State) (i j : Bool) : (s.setIff i j).ula = s.ula := rfl
@[simp] theorem State.setIff_tape (s : State) (i j : Bool) : (s.setIff i j).tape = s.tape := rfl
@[simp] theorem State.setIff_env (s : State) (i j : Bool) : (s.setIff i j).env = s.env := rfl

/-! ### setIm -/

@[simp] theorem State.setIm_cpu (s : State) (m : IntMode) : (s.setIm m).cpu = { s.cpu with im := m } := rfl
@[simp] theorem State.setIm_mem (s : State) (m : IntMode) : (s.setIm m).mem = s.mem := rfl
@[simp] theorem State.setIm_ula (s : State) (m : IntMode) : (s.setIm m).ula = s.ula := rfl
@[simp] theorem State.setIm_tape (s : State) (m : IntMode) : (s.setIm m).tape = s.tape := rfl
@[simp] theorem State.setIm_env (s : State) (m : IntMode) : (s.setIm m).env = s.env := rfl

/-! ### setHalted -/

@[simp] theorem State.setHalted_cpu (s : State) (b : Bool) : (s.setHalted b).cpu = { s.cpu with halted := b } := rfl
@[simp] theorem State.setHalted_mem (s : State) (b : Bool) : (s.setHalted b).mem = s.mem := rfl
@[simp] theorem State.setHalted_ula (s : State) (b : Bool) : (s.setHalted b).ula = s.ula := rfl
@[simp] theorem State.setHalted_tape (s : State) (b : Bool) : (s.setHalted b).tape = s.tape := rfl
@[simp] theorem State.setHalted_env (s : State) (b : Bool) : (s.setHalted b).env = s.env := rfl

/-! ### setEiBlock -/

@[simp] theorem State.setEiBlock_cpu (s : State) (b : Bool) : (s.setEiBlock b).cpu = { s.cpu with eiBlock := b } := rfl
@[simp] theorem State.setEiBlock_mem (s : State) (b : Bool) : (s.setEiBlock b).mem = s.mem := rfl
@[simp] theorem State.setEiBlock_ula (s : State) (b : Bool) : (s.setEiBlock b).ula = s.ula := rfl
@[simp] theorem State.setEiBlock_tape (s : State) (b : Bool) : (s.setEiBlock b).tape = s.tape := rfl
@[simp] theorem State.setEiBlock_env (s : State) (b : Bool) : (s.setEiBlock b).env = s.env := rfl

/-! ### setNmiPending -/

@[simp] theorem State.setNmiPending_cpu (s : State) (b : Bool) : (s.setNmiPending b).cpu = { s.cpu with nmiPending := b } := rfl
@[simp] theorem State.setNmiPending_mem (s : State) (b : Bool) : (s.setNmiPending b).mem = s.mem := rfl
@[simp] theorem State.setNmiPending_ula (s : State) (b : Bool) : (s.setNmiPending b).ula = s.ula := rfl
@[simp] theorem State.setNmiPending_tape (s : State) (b : Bool) : (s.setNmiPending b).tape = s.tape := rfl
@[simp] theorem State.setNmiPending_env (s : State) (b : Bool) : (s.setNmiPending b).env = s.env := rfl

/-! ### bumpR -/

@[simp] theorem State.bumpR_cpu (s : State) : (s.bumpR).cpu = { s.cpu with r := nextR s.cpu.r } := rfl
@[simp] theorem State.bumpR_mem (s : State) : (s.bumpR).mem = s.mem := rfl
@[simp] theorem State.bumpR_ula (s : State) : (s.bumpR).ula = s.ula := rfl
@[simp] theorem State.bumpR_tape (s : State) : (s.bumpR).tape = s.tape := rfl
@[simp] theorem State.bumpR_env (s : State) : (s.bumpR).env = s.env := rfl

/-! ### charge -/

@[simp] theorem State.charge_cpu (s : State) (n : Nat) (l : List Access) : (s.charge n l).cpu = { s.cpu with tacts := s.cpu.tacts + n + s.waits l } := rfl
@[simp] theorem State.charge_mem (s : State) (n : Nat) (l : List Access) : (s.charge n l).mem = s.mem := rfl
@[simp] theorem State.charge_ula (s : State) (n : Nat) (l : List Access) : (s.charge n l).ula = s.ula := rfl
@[simp] theorem State.charge_tape (s : State) (n : Nat) (l : List Access) : (s.charge n l).tape = s.tape := rfl
@[simp] theorem State.charge_env (s : State) (n : Nat) (l : List Access) : (s.charge n l).env = s.env := rfl

/-! ### Cpu.setReg: the fields it never writes -/

@[simp] theorem Cpu.setReg_f (c : Cpu) (r : Reg8) (v : Byte) : (c.setReg r v).f = c.f := by cases r <;> rfl
@[simp] theorem Cpu.setReg_aShadow (c : Cpu) (r : Reg8) (v : Byte) : (c.setReg r v).a' = c.a' := by cases r <;> rfl
@[simp] theorem Cpu.setReg_fShadow (c : Cpu) (r : Reg8) (v : Byte) : (c.setReg r v).f' = c.f' := by cases r <;> rfl
@[simp] theorem Cpu.setReg_bShadow (c : Cpu) (r : Reg8) (v : Byte) : (c.setReg r v).b' = c.b' := by cases r <;> rfl
@[simp] theorem Cpu.setReg_cShadow (c : Cpu) (r : Reg8) (v : Byte) : (c.setReg r v).c' = c.c' := by cases r <;> rfl
@[simp] theorem Cpu.setReg_dShadow (c : Cpu) (r : Reg8) (v : Byte) : (c.setReg r v).d' = c.d' := by cases r <;> rfl
@[simp] theorem Cpu.setReg_eShadow (c : Cpu) (r : Reg8) (v : Byte) : (c.setReg r v).e' = c.e' := by cases r <;> rfl
@[simp] theorem Cpu.setReg_hShadow (c : Cpu) (r : Reg8) (v : Byte) : (c.setReg r v).h' = c.h' := by cases r <;> rfl
@[simp] theorem Cpu.setReg_lShadow (c : Cpu) (r : Reg8) (v : Byte) : (c.setReg r v).l' = c.l' := by cases r <;> rfl
@[simp] theorem Cpu.setReg_ix (c : Cpu) (r : Reg8) (v : Byte) : (c.setReg r v).ix = c.ix := by cases r <;> rfl
@[simp] theorem Cpu.setReg_iy (c : Cpu) (r : Reg8) (v : Byte) : (c.setReg r v).iy = c.iy := by cases r <;> rfl
@[simp] theorem Cpu.setReg_sp (c : Cpu) (r : Reg8) (v : Byte) : (c.setReg r v).sp = c.sp := by cases r <;> rfl
@[simp] theorem Cpu.setReg_pc (c : Cpu) (r : Reg8) (v : Byte) : (c.setReg r v).pc = c.pc := by cases r <;> rfl
@[simp] theorem Cpu.setReg_i (c : Cpu) (r : Reg8) (v : Byte) : (c.setReg r v).i = c.i := by cases r <;> rfl
@[simp] theorem Cpu.setReg_r (c : Cpu) (r : Reg8) (v : Byte) : (c.setReg r v).r = c.r := by cases r <;> rfl
@[simp] theorem Cpu.setReg_iff1 (c : Cpu) (r : Reg8) (v : Byte) : (c.setReg r v).iff1 = c.iff1 := by cases r <;> rfl
@[simp] theorem Cpu.setReg_iff2 (c : Cpu) (r : Reg8) (v : Byte) : (c.setReg r v).iff2 = c.iff2 := by cases r <;> rfl
@[simp] theorem Cpu.setReg_im (c : Cpu) (r : Reg8) (v : Byte) : (c.setReg r v).im = c.im := by cases r <;> rfl
@[simp] theorem Cpu.setReg_halted (c : Cpu) (r : Reg8) (v : Byte) : (c.setReg r v).halted = c.halted := by cases r <;> rfl
@[simp] theorem Cpu.setReg_pfx (c : Cpu) (r : Reg8) (v : Byte) : (c.setReg r v).pfx = c.pfx := by cases r <;> rfl
@[simp] theorem Cpu.setReg_memptr (c : Cpu) (r : Reg8) (v : Byte) : (c.setReg r v).memptr = c.memptr := by cases r <;> rfl
@[simp] theorem Cpu.setReg_eiBlock (c : Cpu) (r : Reg8) (v : Byte) : (c.setReg r v).eiBlock = c.eiBlock := by cases r <;> rfl
@[simp] theorem Cpu.setReg_nmiPending (c : Cpu) (r : Reg8) (v : Byte) : (c.setReg r v).nmiPending = c.nmiPending := by cases r <;> rfl
@[simp] theorem Cpu.setReg_tacts (c : Cpu) (r : Reg8) (v : Byte) : (c.setReg r v).tacts = c.tacts := by cases r <;> rfl

/-! ### setXy -/

@[simp] theorem State.setXy_mem (s : State) (x : IndexReg) (v : Word) : (s.setXy x v).mem = s.mem := by cases x <;> rfl
@[simp] theorem State.setXy_ula (s : State) (x : IndexReg) (v : Word) : (s.setXy x v).ula = s.ula := by cases x <;> rfl
@[simp] theorem State.setXy_tape (s : State) (x : IndexReg) (v : Word) : (s.setXy x v).tape = s.tape := by cases x <;> rfl
@[simp] theorem State.setXy_env (s : State) (x : IndexReg) (v : Word) : (s.setXy x v).env = s.env := by cases x <;> rfl
@[simp] theorem State.setXy_cpu_a (s : State) (x : IndexReg) (v : Word) : (s.setXy x v).cpu.a = s.cpu.a := by
  cases x <;> rfl
@[simp] theorem State.setXy_cpu_f (s : State) (x : IndexReg) (v : Word) : (s.setXy x v).cpu.f = s.cpu.f := by
  cases x <;> rfl
@[simp] theorem State.setXy_cpu_b (s : State) (x : IndexReg) (v : Word) : (s.setXy x v).cpu.b = s.cpu.b := by
  cases x <;> rfl
@[simp] theorem State.setXy_cpu_c (s : State) (x : IndexReg) (v : Word) : (s.setXy x v).cpu.c = s.cpu.c := by
  cases x <;> rfl
@[simp] theorem State.setXy_cpu_d (s : State) (x : IndexReg) (v : Word) : (s.setXy x v).cpu.d = s.cpu.d := by
  cases x <;> rfl
@[simp] theorem State.setXy_cpu_e (s : State) (x : IndexReg) (v : Word) : (s.setXy x v).cpu.e = s.cpu.e := by
  cases x <;> rfl
@[simp] theorem State.setXy_cpu_h (s : State) (x : IndexReg) (v : Word) : (s.setXy x v).cpu.h = s.cpu.h := by
  cases x <;> rfl
@[simp] theorem State.setXy_cpu_l (s : State) (x : IndexReg) (v : Word) : (s.setXy x v).cpu.l = s.cpu.l := by
  cases x <;> rfl
@[simp] theorem State.setXy_cpu_aShadow (s : State) (x : IndexReg) (v : Word) : (s.setXy x v).cpu.a' = s.cpu.a' := by
  cases x <;> rfl
@[simp] theorem State.setXy_cpu_fShadow (s : State) (x : IndexReg) (v : Word) : (s.setXy x v).cpu.f' = s.cpu.f' := by
  cases x <;> rfl
@[simp] theorem State.setXy_cpu_bShadow (s : State) (x : IndexReg) (v : Word) : (s.setXy x v).cpu.b' = s.cpu.b' := by
  cases x <;> rfl
@[simp] theorem State.setXy_cpu_cShadow (s : State) (x : IndexReg) (v : Word) : (s.setXy x v).cpu.c' = s.cpu.c' := by
  cases x <;> rfl
@[simp] theorem State.setXy_cpu_dShadow (s : State) (x : IndexReg) (v : Word) : (s.setXy x v).cpu.d' = s.cpu.d' := by
  cases x <;> rfl
@[simp] theorem State.setXy_cpu_eShadow (s : State) (x : IndexReg) (v : Word) : (s.setXy x v).cpu.e' = s.cpu.e' := by
  cases x <;> rfl
@[simp] theorem State.setXy_cpu_hShadow (s : State) (x : IndexReg) (v : Word) : (s.setXy x v).cpu.h' = s.cpu.h' := by
  cases x <;> rfl
@[simp] theorem State.setXy_cpu_lShadow (s : State) (x : IndexReg) (v : Word) : (s.setXy x v).cpu.l' = s.cpu.l' := by
  cases x <;> rfl
@[simp] theorem State.setXy_cpu_sp (s : State) (x : IndexReg) (v : Word) : (s.setXy x v).cpu.sp = s.cpu.sp := by
  cases x <;> rfl
@[simp] theorem State.setXy_cpu_pc (s : State) (x : IndexReg) (v : Word) : (s.setXy x v).cpu.pc = s.cpu.pc := by
  cases x <;> rfl
@[simp] theorem State.setXy_cpu_i (s : State) (x : IndexReg) (v : Word) : (s.setXy x v).cpu.i = s.cpu.i := by
  cases x <;> rfl
@[simp] theorem State.setXy_cpu_r (s : State) (x : IndexReg) (v : Word) : (s.setXy x v).cpu.r = s.cpu.r := by
  cases x <;> rfl
@[simp] theorem State.setXy_cpu_iff1 (s : State) (x : IndexReg) (v : Word) : (s.setXy x v).cpu.iff1 = s.cpu.iff1 := by
  cases x <;> rfl
@[simp] theorem State.setXy_cpu_iff2 (s : State) (x : IndexReg) (v : Word) : (s.setXy x v).cpu.iff2 = s.cpu.iff2 := by
  cases x <;> rfl
@[simp] theorem State.setXy_cpu_im (s : State) (x : IndexReg) (v : Word) : (s.setXy x v).cpu.im = s.cpu.im := by
  cases x <;> rfl
@[simp] theorem State.setXy_cpu_halted (s : State) (x : IndexReg) (v : Word) : (s.setXy x v).cpu.halted = s.cpu.halted := by
  cases x <;> rfl
@[simp] theorem State.setXy_cpu_pfx (s : State) (x : IndexReg) (v : Word) : (s.setXy x v).cpu.pfx = s.cpu.pfx := by
  cases x <;> rfl
@[simp] theorem State.setXy_cpu_memptr (s : State) (x : IndexReg) (v : Word) : (s.setXy x v).cpu.memptr = s.cpu.memptr := by
  cases x <;> rfl
@[simp] theorem State.setXy_cpu_eiBlock (s : State) (x : IndexReg) (v : Word) : (s.setXy x v).cpu.eiBlock = s.cpu.eiBlock := by
  cases x <;> rfl
@[simp] theorem State.setXy_cpu_nmiPending (s : State) (x : IndexReg) (v : Word) : (s.setXy x v).cpu.nmiPending = s.cpu.nmiPending := by
  cases x <;> rfl
@[simp] theorem State.setXy_cpu_tacts (s : State) (x : IndexReg) (v : Word) : (s.setXy x v).cpu.tacts = s.cpu.tacts := by
  cases x <;> rfl

/-! ### setXyHalf -/

@[simp] theorem State.setXyHalf_mem (s : State) (x : IndexReg) (h : Half) (v : Byte) : (s.setXyHalf x h v).mem = s.mem := by cases x <;> cases h <;> rfl
@[simp] theorem State.setXyHalf_ula (s : State) (x : IndexReg) (h : Half) (v : Byte) : (s.setXyHalf x h v).ula = s.ula := by cases x <;> cases h <;> rfl
@[simp] theorem State.setXyHalf_tape (s : State) (x : IndexReg) (h : Half) (v : Byte) : (s.setXyHalf x h v).tape = s.tape := by cases x <;> cases h <;> rfl
@[simp] theorem State.setXyHalf_env (s : State) (x : IndexReg) (h : Half) (v : Byte) : (s.setXyHalf x h v).env = s.env := by cases x <;> cases h <;> rfl
@[simp] theorem State.setXyHalf_cpu_a (s : State) (x : IndexReg) (h : Half) (v : Byte) : (s.setXyHalf x h v).cpu.a = s.cpu.a := by
  cases x <;> cases h <;> rfl
@[simp] theorem State.setXyHalf_cpu_f (s : State) (x : IndexReg) (h : Half) (v : Byte) : (s.setXyHalf x h v).cpu.f = s.cpu.f := by
  cases x <;> cases h <;> rfl
@[simp] theorem State.setXyHalf_cpu_b (s : State) (x : IndexReg) (h : Half) (v : Byte) : (s.setXyHalf x h v).cpu.b = s.cpu.b := by
  cases x <;> cases h <;> rfl
@[simp] theorem State.setXyHalf_cpu_c (s : State) (x : IndexReg) (h : Half) (v : Byte) : (s.setXyHalf x h v).cpu.c = s.cpu.c := by
  cases x <;> cases h <;> rfl
@[simp] theorem State.setXyHalf_cpu_d (s : State) (x : IndexReg) (h : Half) (v : Byte) : (s.setXyHalf x h v).cpu.d = s.cpu.d := by
  cases x <;> cases h <;> rfl
@[simp] theorem State.setXyHalf_cpu_e (s : State) (x : IndexReg) (h : Half) (v : Byte) : (s.setXyHalf x h v).cpu.e = s.cpu.e := by
  cases x <;> cases h <;> rfl
@[simp] theorem State.setXyHalf_cpu_h (s : State) (x : IndexReg) (h : Half) (v : Byte) : (s.setXyHalf x h v).cpu.h = s.cpu.h := by
  cases x <;> cases h <;> rfl
@[simp] theorem State.setXyHalf_cpu_l (s : State) (x : IndexReg) (h : Half) (v : Byte) : (s.setXyHalf x h v).cpu.l = s.cpu.l := by
  cases x <;> cases h <;> rfl
@[simp] theorem State.setXyHalf_cpu_aShadow (s : State) (x : IndexReg) (h : Half) (v : Byte) : (s.setXyHalf x h v).cpu.a' = s.cpu.a' := by
  cases x <;> cases h <;> rfl
@[simp] theorem State.setXyHalf_cpu_fShadow (s : State) (x : IndexReg) (h : Half) (v : Byte) : (s.setXyHalf x h v).cpu.f' = s.cpu.f' := by
  cases x <;> cases h <;> rfl
@[simp] theorem State.setXyHalf_cpu_bShadow (s : State) (x : IndexReg) (h : Half) (v : Byte) : (s.setXyHalf x h v).cpu.b' = s.cpu.b' := by
  cases x <;> cases h <;> rfl
@[simp] theorem State.setXyHalf_cpu_cShadow (s : State) (x : IndexReg) (h : Half) (v : Byte) : (s.setXyHalf x h v).cpu.c' = s.cpu.c' := by
  cases x <;> cases h <;> rfl
@[simp] theorem State.setXyHalf_cpu_dShadow (s : State) (x : IndexReg) (h : Half) (v : Byte) : (s.setXyHalf x h v).cpu.d' = s.cpu.d' := by
  cases x <;> cases h <;> rfl
@[simp] theorem State.setXyHalf_cpu_eShadow (s : State) (x : IndexReg) (h : Half) (v : Byte) : (s.setXyHalf x h v).cpu.e' = s.cpu.e' := by
  cases x <;> cases h <;> rfl
@[simp] theorem State.setXyHalf_cpu_hShadow (s : State) (x : IndexReg) (h : Half) (v : Byte) : (s.setXyHalf x h v).cpu.h' = s.cpu.h' := by
  cases x <;> cases h <;> rfl
@[simp] theorem State.setXyHalf_cpu_lShadow (s : State) (x : IndexReg) (h : Half) (v : Byte) : (s.setXyHalf x h v).cpu.l' = s.cpu.l' := by
  cases x <;> cases h <;> rfl
@[simp] theorem State.setXyHalf_cpu_sp (s : State) (x : IndexReg) (h : Half) (v : Byte) : (s.setXyHalf x h v).cpu.sp = s.cpu.sp := by
  cases x <;> cases h <;> rfl
@[simp] theorem State.setXyHalf_cpu_pc (s : State) (x : IndexReg) (h : Half) (v : Byte) : (s.setXyHalf x h v).cpu.pc = s.cpu.pc := by
  cases x <;> cases h <;> rfl
@[simp] theorem State.setXyHalf_cpu_i (s : State) (x : IndexReg) (h : Half) (v : Byte) : (s.setXyHalf x h v).cpu.i = s.cpu.i := by
  cases x <;> cases h <;> rfl
@[simp] theorem State.setXyHalf_cpu_r (s : State) (x : IndexReg) (h : Half) (v : Byte) : (s.setXyHalf x h v).cpu.r = s.cpu.r := by
  cases x <;> cases h <;> rfl
@[simp] theorem State.setXyHalf_cpu_iff1 (s : State) (x : IndexReg) (h : Half) (v : Byte) : (s.setXyHalf x h v).cpu.iff1 = s.cpu.iff1 := by
  cases x <;> cases h <;> rfl
@[simp] theorem State.setXyHalf_cpu_iff2 (s : State) (x : IndexReg) (h : Half) (v : Byte) : (s.setXyHalf x h v).cpu.iff2 = s.cpu.iff2 := by
  cases x <;> cases h <;> rfl
@[simp] theorem State.setXyHalf_cpu_im (s : State) (x : IndexReg) (h : Half) (v : Byte) : (s.setXyHalf x h v).cpu.im = s.cpu.im := by
  cases x <;> cases h <;> rfl
@[simp] theorem State.setXyHalf_cpu_halted (s : State) (x : IndexReg) (h : Half) (v : Byte) : (s.setXyHalf x h v).cpu.halted = s.cpu.halted := by
  cases x <;> cases h <;> rfl
@[simp] theorem State.setXyHalf_cpu_pfx (s : State) (x : IndexReg) (h : Half) (v : Byte) : (s.setXyHalf x h v).cpu.pfx = s.cpu.pfx := by
  cases x <;> cases h <;> rfl
@[simp] theorem State.setXyHalf_cpu_memptr (s : State) (x : IndexReg) (h : Half) (v : Byte) : (s.setXyHalf x h v).cpu.memptr = s.cpu.memptr := by
  cases x <;> cases h <;> rfl
@[simp] theorem State.setXyHalf_cpu_eiBlock (s : State) (x : IndexReg) (h : Half) (v : Byte) : (s.setXyHalf x h v).cpu.eiBlock = s.cpu.eiBlock := by
  cases x <;> cases h <;> rfl
@[simp] theorem State.setXyHalf_cpu_nmiPending (s : State) (x : IndexReg) (h : Half) (v : Byte) : (s.setXyHalf x h v).cpu.nmiPending = s.cpu.nmiPending := by
  cases x <;> cases h <;> rfl
@[simp] theorem State.setXyHalf_cpu_tacts (s : State) (x : IndexReg) (h : Half) (v : Byte) : (s.setXyHalf x h v).cpu.tacts = s.cpu.tacts := by
  cases x <;> cases h <;> rfl

/-! ### setRegX -/

@[simp] theorem State.setRegX_mem (s : State) (x : IndexReg) (r : Reg8X) (v : Byte) : (s.setRegX x r v).mem = s.mem := by cases x <;> cases r <;> rfl
@[simp] theorem State.setRegX_ula (s : State) (x : IndexReg) (r : Reg8X) (v : Byte) : (s.setRegX x r v).ula = s.ula := by cases x <;> cases r <;> rfl
@[simp] theorem State.setRegX_tape (s : State) (x : IndexReg) (r : Reg8X) (v : Byte) : (s.setRegX x r v).tape = s.tape := by cases x <;> cases r <;> rfl
@[simp] theorem State.setRegX_env (s : State) (x : IndexReg) (r : Reg8X) (v : Byte) : (s.setRegX x r v).env = s.env := by cases x <;> cases r <;> rfl
@[simp] theorem State.setRegX_cpu_f (s : State) (x : IndexReg) (r : Reg8X) (v : Byte) : (s.setRegX x r v).cpu.f = s.cpu.f := by
  cases x <;> cases r <;> rfl
@[simp] theorem State.setRegX_cpu_h (s : State) (x : IndexReg) (r : Reg8X) (v : Byte) : (s.setRegX x r v).cpu.h = s.cpu.h := by
  cases x <;> cases r <;> rfl
@[simp] theorem State.setRegX_cpu_l (s : State) (x : IndexReg) (r : Reg8X) (v : Byte) : (s.setRegX x r v).cpu.l = s.cpu.l := by
  cases x <;> cases r <;> rfl
@[simp] theorem State.setRegX_cpu_aShadow (s : State) (x : IndexReg) (r : Reg8X) (v : Byte) : (s.setRegX x r v).cpu.a' = s.cpu.a' := by
  cases x <;> cases r <;> rfl
@[simp] theorem State.setRegX_cpu_fShadow (s : State) (x : IndexReg) (r : Reg8X) (v : Byte) : (s.setRegX x r v).cpu.f' = s.cpu.f' := by
  cases x <;> cases r <;> rfl
@[simp] theorem State.setRegX_cpu_bShadow (s : State) (x : IndexReg) (r : Reg8X) (v : Byte) : (s.setRegX x r v).cpu.b' = s.cpu.b' := by
  cases x <;> cases r <;> rfl
@[simp] theorem State.setRegX_cpu_cShadow (s : State) (x : IndexReg) (r : Reg8X) (v : Byte) : (s.setRegX x r v).cpu.c' = s.cpu.c' := by
  cases x <;> cases r <;> rfl
@[simp] theorem State.setRegX_cpu_dShadow (s : State) (x : IndexReg) (r : Reg8X) (v : Byte) : (s.setRegX x r v).cpu.d' = s.cpu.d' := by
  cases x <;> cases r <;> rfl
@[simp] theorem State.setRegX_cpu_eShadow (s : State) (x : IndexReg) (r : Reg8X) (v : Byte) : (s.setRegX x r v).cpu.e' = s.cpu.e' := by
  cases x <;> cases r <;> rfl
@[simp] theorem State.setRegX_cpu_hShadow (s : State) (x : IndexReg) (r : Reg8X) (v : Byte) : (s.setRegX x r v).cpu.h' = s.cpu.h' := by
  cases x <;> cases r <;> rfl
@[simp] theorem State.setRegX_cpu_lShadow (s : State) (x : IndexReg) (r : Reg8X) (v : Byte) : (s.setRegX x r v).cpu.l' = s.cpu.l' := by
  cases x <;> cases r <;> rfl
@[simp] theorem State.setRegX_cpu_sp (s : State) (x : IndexReg) (r : Reg8X) (v : Byte) : (s.setRegX x r v).cpu.sp = s.cpu.sp := by
  cases x <;> cases r <;> rfl
@[simp] theorem State.setRegX_cpu_pc (s : State) (x : IndexReg) (r : Reg8X) (v : Byte) : (s.setRegX x r v).cpu.pc = s.cpu.pc := by
  cases x <;> cases r <;> rfl
@[simp] theorem State.setRegX_cpu_i (s : State) (x : IndexReg) (r : Reg8X) (v : Byte) : (s.setRegX x r v).cpu.i = s.cpu.i := by
  cases x <;> cases r <;> rfl
@[simp] theorem State.setRegX_cpu_r (s : State) (x : IndexReg) (r : Reg8X) (v : Byte) : (s.setRegX x r v).cpu.r = s.cpu.r := by
  cases x <;> cases r <;> rfl
@[simp] theorem State.setRegX_cpu_iff1 (s : State) (x : IndexReg) (r : Reg8X) (v : Byte) : (s.setRegX x r v).cpu.iff1 = s.cpu.iff1 := by
  cases x <;> cases r <;> rfl
@[simp] theorem State.setRegX_cpu_iff2 (s : State) (x : IndexReg) (r : Reg8X) (v : Byte) : (s.setRegX x r v).cpu.iff2 = s.cpu.iff2 := by
  cases x <;> cases r <;> rfl
@[simp] theorem State.setRegX_cpu_im (s : State) (x : IndexReg) (r : Reg8X) (v : Byte) : (s.setRegX x r v).cpu.im = s.cpu.im := by
  cases x <;> cases r <;> rfl
@[simp] theorem State.setRegX_cpu_halted (s : State) (x : IndexReg) (r : Reg8X) (v : Byte) : (s.setRegX x r v).cpu.halted = s.cpu.halted := by
  cases x <;> cases r <;> rfl
@[simp] theorem State.setRegX_cpu_pfx (s : State) (x : IndexReg) (r : Reg8X) (v : Byte) : (s.setRegX x r v).cpu.pfx = s.cpu.pfx := by
  cases x <;> cases r <;> rfl
@[simp] theorem State.setRegX_cpu_memptr (s : State) (x : IndexReg) (r : Reg8X) (v : Byte) : (s.setRegX x r v).cpu.memptr = s.cpu.memptr := by
  cases x <;> cases r <;> rfl
@[simp] theorem State.setRegX_cpu_eiBlock (s : State) (x : IndexReg) (r : Reg8X) (v : Byte) : (s.setRegX x r v).cpu.eiBlock = s.cpu.eiBlock := by
  cases x <;> cases r <;> rfl
@[simp] theorem State.setRegX_cpu_nmiPending (s : State) (x : IndexReg) (r : Reg8X) (v : Byte) : (s.setRegX x r v).cpu.nmiPending = s.cpu.nmiPending := by
  cases x <;> cases r <;> rfl
@[simp] theorem State.setRegX_cpu_tacts (s : State) (x : IndexReg) (r : Reg8X) (v : Byte) : (s.setRegX x r v).cpu.tacts = s.cpu.tacts := by
  cases x <;> cases r <;> rfl

/-! ### setRp -/

@[simp] theorem State.setRp_mem (s : State) (p : RegPair) (v : Word) : (s.setRp p v).mem = s.mem := by cases p <;> rfl
@[simp] theorem State.setRp_ula (s : State) (p : RegPair) (v : Word) : (s.setRp p v).ula = s.ula := by cases p <;> rfl
@[simp] theorem State.setRp_tape (s : State) (p : RegPair) (v : Word) : (s.setRp p v).tape = s.tape := by cases p <;> rfl
@[simp] theorem State.setRp_env (s : State) (p : RegPair) (v : Word) : (s.setRp p v).env = s.env := by cases p <;> rfl
@[simp] theorem State.setRp_cpu_a (s : State) (p : RegPair) (v : Word) : (s.setRp p v).cpu.a = s.cpu.a := by
  cases p <;> rfl
@[simp] theorem State.setRp_cpu_f (s : State) (p : RegPair) (v : Word) : (s.setRp p v).cpu.f = s.cpu.f := by
  cases p <;> rfl
@[simp] theorem State.setRp_cpu_aShadow (s : State) (p : RegPair) (v : Word) : (s.setRp p v).cpu.a' = s.cpu.a' := by
  cases p <;> rfl
@[simp] theorem State.setRp_cpu_fShadow (s : State) (p : RegPair) (v : Word) : (s.setRp p v).cpu.f' = s.cpu.f' := by
  cases p <;> rfl
@[simp] theorem State.setRp_cpu_bShadow (s : State) (p : RegPair) (v : Word) : (s.setRp p v).cpu.b' = s.cpu.b' := by
  cases p <;> rfl
@[simp] theorem State.setRp_cpu_cShadow (s : State) (p : RegPair) (v : Word) : (s.setRp p v).cpu.c' = s.cpu.c' := by
  cases p <;> rfl
@[simp] theorem State.setRp_cpu_dShadow (s : State) (p : RegPair) (v : Word) : (s.setRp p v).cpu.d' = s.cpu.d' := by
  cases p <;> rfl
@[simp] theorem State.setRp_cpu_eShadow (s : State) (p : RegPair) (v : Word) : (s.setRp p v).cpu.e' = s.cpu.e' := by
  cases p <;> rfl
@[simp] theorem State.setRp_cpu_hShadow (s : State) (p : RegPair) (v : Word) : (s.setRp p v).cpu.h' = s.cpu.h' := by
  cases p <;> rfl
@[simp] theorem State.setRp_cpu_lShadow (s : State) (p : RegPair) (v : Word) : (s.setRp p v).cpu.l' = s.cpu.l' := by
  cases p <;> rfl
@[simp] theorem State.setRp_cpu_ix (s : State) (p : RegPair) (v : Word) : (s.setRp p v).cpu.ix = s.cpu.ix := by
  cases p <;> rfl
@[simp] theorem State.setRp_cpu_iy (s : State) (p : RegPair) (v : Word) : (s.setRp p v).cpu.iy = s.cpu.iy := by
  cases p <;> rfl
@[simp] theorem State.setRp_cpu_pc (s : State) (p : RegPair) (v : Word) : (s.setRp p v).cpu.pc = s.cpu.pc := by
  cases p <;> rfl
@[simp] theorem State.setRp_cpu_i (s : State) (p : RegPair) (v : Word) : (s.setRp p v).cpu.i = s.cpu.i := by
  cases p <;> rfl
@[simp] theorem State.setRp_cpu_r (s : State) (p : RegPair) (v : Word) : (s.setRp p v).cpu.r = s.cpu.r := by
  cases p <;> rfl
@[simp] theorem State.setRp_cpu_iff1 (s : State) (p : RegPair) (v : Word) : (s.setRp p v).cpu.iff1 = s.cpu.iff1 := by
  cases p <;> rfl
@[simp] theorem State.setRp_cpu_iff2 (s : State) (p : RegPair) (v : Word) : (s.setRp p v).cpu.iff2 = s.cpu.iff2 := by
  cases p <;> rfl
@[simp] theorem State.setRp_cpu_im (s : State) (p : RegPair) (v : Word) : (s.setRp p v).cpu.im = s.cpu.im := by
  cases p <;> rfl
@[simp] theorem State.setRp_cpu_halted (s : State) (p : RegPair) (v : Word) : (s.setRp p v).cpu.halted = s.cpu.halted := by
  cases p <;> rfl
@[simp] theorem State.setRp_cpu_pfx (s : State) (p : RegPair) (v : Word) : (s.setRp p v).cpu.pfx = s.cpu.pfx := by
  cases p <;> rfl
@[simp] theorem State.setRp_cpu_memptr (s : State) (p : RegPair) (v : Word) : (s.setRp p v).cpu.memptr = s.cpu.memptr := by
  cases p <;> rfl
@[simp] theorem State.setRp_cpu_eiBlock (s : State) (p : RegPair) (v : Word) : (s.setRp p v).cpu.eiBlock = s.cpu.eiBlock := by
  cases p <;> rfl
@[simp] theorem State.setRp_cpu_nmiPending (s : State) (p : RegPair) (v : Word) : (s.setRp p v).cpu.nmiPending = s.cpu.nmiPending := by
  cases p <;> rfl
@[simp] theorem State.setRp_cpu_tacts (s : State) (p : RegPair) (v : Word) : (s.setRp p v).cpu.tacts = s.cpu.tacts := by
  cases p <;> rfl

/-! ### setStackPair -/

@[simp] theorem State.setStackPair_mem (s : State) (p : StackPair) (v : Word) : (s.setStackPair p v).mem = s.mem := by cases p <;> rfl
@[simp] theorem State.setStackPair_ula (s : State) (p : StackPair) (v : Word) : (s.setStackPair p v).ula = s.ula := by cases p <;> rfl
@[simp] theorem State.setStackPair_tape (s : State) (p : StackPair) (v : Word) : (s.setStackPair p v).tape = s.tape := by cases p <;> rfl
@[simp] theorem State.setStackPair_env (s : State) (p : StackPair) (v : Word) : (s.setStackPair p v).env = s.env := by cases p <;> rfl
@[simp] theorem State.setStackPair_cpu_aShadow (s : State) (p : StackPair) (v : Word) : (s.setStackPair p v).cpu.a' = s.cpu.a' := by
  cases p <;> rfl
@[simp] theorem State.setStackPair_cpu_fShadow (s : State) (p : StackPair) (v : Word) : (s.setStackPair p v).cpu.f' = s.cpu.f' := by
  cases p <;> rfl
@[simp] theorem State.setStackPair_cpu_bShadow (s : State) (p : StackPair) (v : Word) : (s.setStackPair p v).cpu.b' = s.cpu.b' := by
  cases p <;> rfl
@[simp] theorem State.setStackPair_cpu_cShadow (s : State) (p : StackPair) (v : Word) : (s.setStackPair p v).cpu.c' = s.cpu.c' := by
  cases p <;> rfl
@[simp] theorem State.setStackPair_cpu_dShadow (s : State) (p : StackPair) (v : Word) : (s.setStackPair p v).cpu.d' = s.cpu.d' := by
  cases p <;> rfl
@[simp] theorem State.setStackPair_cpu_eShadow (s : State) (p : StackPair) (v : Word) : (s.setStackPair p v).cpu.e' = s.cpu.e' := by
  cases p <;> rfl
@[simp] theorem State.setStackPair_cpu_hShadow (s : State) (p : StackPair) (v : Word) : (s.setStackPair p v).cpu.h' = s.cpu.h' := by
  cases p <;> rfl
@[simp] theorem State.setStackPair_cpu_lShadow (s : State) (p : StackPair) (v : Word) : (s.setStackPair p v).cpu.l' = s.cpu.l' := by
  cases p <;> rfl
@[simp] theorem State.setStackPair_cpu_ix (s : State) (p : StackPair) (v : Word) : (s.setStackPair p v).cpu.ix = s.cpu.ix := by
  cases p <;> rfl
@[simp] theorem State.setStackPair_cpu_iy (s : State) (p : StackPair) (v : Word) : (s.setStackPair p v).cpu.iy = s.cpu.iy := by
  cases p <;> rfl
@[simp] theorem State.setStackPair_cpu_sp (s : State) (p : StackPair) (v : Word) : (s.setStackPair p v).cpu.sp = s.cpu.sp := by
  cases p <;> rfl
@[simp] theorem State.setStackPair_cpu_pc (s : State) (p : StackPair) (v : Word) : (s.setStackPair p v).cpu.pc = s.cpu.pc := by
  cases p <;> rfl
@[simp] theorem State.setStackPair_cpu_i (s : State) (p : StackPair) (v : Word) : (s.setStackPair p v).cpu.i = s.cpu.i := by
  cases p <;> rfl
@[simp] theorem State.setStackPair_cpu_r (s : State) (p : StackPair) (v : Word) : (s.setStackPair p v).cpu.r = s.cpu.r := by
  cases p <;> rfl
@[simp] theorem State.setStackPair_cpu_iff1 (s : State) (p : StackPair) (v : Word) : (s.setStackPair p v).cpu.iff1 = s.cpu.iff1 := by
  cases p <;> rfl
@[simp] theorem State.setStackPair_cpu_iff2 (s : State) (p : StackPair) (v : Word) : (s.setStackPair p v).cpu.iff2 = s.cpu.iff2 := by
  cases p <;> rfl
@[simp] theorem State.setStackPair_cpu_im (s : State) (p : StackPair) (v : Word) : (s.setStackPair p v).cpu.im = s.cpu.im := by
  cases p <;> rfl
@[simp] theorem State.setStackPair_cpu_halted (s : State) (p : StackPair) (v : Word) : (s.setStackPair p v).cpu.halted = s.cpu.halted := by
  cases p <;> rfl
@[simp] theorem State.setStackPair_cpu_pfx (s : State) (p : StackPair) (v : Word) : (s.setStackPair p v).cpu.pfx = s.cpu.pfx := by
  cases p <;> rfl
@[simp] theorem State.setStackPair_cpu_memptr (s : State) (p : StackPair) (v : Word) : (s.setStackPair p v).cpu.memptr = s.cpu.memptr := by
  cases p <;> rfl
@[simp] theorem State.setStackPair_cpu_eiBlock (s : State) (p : StackPair) (v : Word) : (s.setStackPair p v).cpu.eiBlock = s.cpu.eiBlock := by
  cases p <;> rfl
@[simp] theorem State.setStackPair_cpu_nmiPending (s : State) (p : StackPair) (v : Word) : (s.setStackPair p v).cpu.nmiPending = s.cpu.nmiPending := by
  cases p <;> rfl
@[simp] theorem State.setStackPair_cpu_tacts (s : State) (p : StackPair) (v : Word) : (s.setStackPair p v).cpu.tacts = s.cpu.tacts := by
  cases p <;> rfl

/-! ### Memory writes -/

@[simp] theorem State.memWrite_cpu (s : State) (a : Word) (v : Byte) : (s.memWrite a v).cpu = s.cpu := by
  unfold State.memWrite; split <;> rfl
@[simp] theorem State.memWrite_ula (s : State) (a : Word) (v : Byte) : (s.memWrite a v).ula = s.ula := by
  unfold State.memWrite; split <;> rfl
@[simp] theorem State.memWrite_tape (s : State) (a : Word) (v : Byte) : (s.memWrite a v).tape = s.tape := by
  unfold State.memWrite; split <;> rfl
@[simp] theorem State.memWrite_env (s : State) (a : Word) (v : Byte) : (s.memWrite a v).env = s.env := by
  unfold State.memWrite; split <;> rfl
@[simp] theorem State.memWrite16_cpu (s : State) (a v : Word) : (s.memWrite16 a v).cpu = s.cpu := by
  simp [State.memWrite16]
@[simp] theorem State.memWrite16_ula (s : State) (a v : Word) : (s.memWrite16 a v).ula = s.ula := by
  simp [State.memWrite16]
@[simp] theorem State.memWrite16_tape (s : State) (a v : Word) : (s.memWrite16 a v).tape = s.tape := by
  simp [State.memWrite16]
@[simp] theorem State.memWrite16_env (s : State) (a v : Word) : (s.memWrite16 a v).env = s.env := by
  simp [State.memWrite16]

/-! ### What a wait depends on -/

/-- The waits of accesses depend on `CONTENTION`, the tact counter and the frame's start alone. -/
theorem State.waits_congr {s t : State} (he : t.env = s.env) (ht : t.cpu.tacts = s.cpu.tacts)
    (hf : t.ula.frameStart = s.ula.frameStart) (l : List Access) : t.waits l = s.waits l := by
  induction l with
  | nil => rfl
  | cons x rest ih => simp [State.waits, State.frameTact, he, ht, hf, ih]

@[simp] theorem State.waits_nil (s : State) : s.waits [] = 0 := rfl
@[simp] theorem State.setA_waits (s : State) (v : Byte) (l : List Access) : (s.setA v).waits l = s.waits l :=
  State.waits_congr (by simp) (by simp) (by simp) l
@[simp] theorem State.setF_waits (s : State) (v : Byte) (l : List Access) : (s.setF v).waits l = s.waits l :=
  State.waits_congr (by simp) (by simp) (by simp) l
@[simp] theorem State.setReg_waits (s : State) (r : Reg8) (v : Byte) (l : List Access) : (s.setReg r v).waits l = s.waits l :=
  State.waits_congr (by simp) (by simp) (by simp) l
@[simp] theorem State.setBc_waits (s : State) (v : Word) (l : List Access) : (s.setBc v).waits l = s.waits l :=
  State.waits_congr (by simp) (by simp) (by simp) l
@[simp] theorem State.setDe_waits (s : State) (v : Word) (l : List Access) : (s.setDe v).waits l = s.waits l :=
  State.waits_congr (by simp) (by simp) (by simp) l
@[simp] theorem State.setHl_waits (s : State) (v : Word) (l : List Access) : (s.setHl v).waits l = s.waits l :=
  State.waits_congr (by simp) (by simp) (by simp) l
@[simp] theorem State.setAf_waits (s : State) (v : Word) (l : List Access) : (s.setAf v).waits l = s.waits l :=
  State.waits_congr (by simp) (by simp) (by simp) l
@[simp] theorem State.setSp_waits (s : State) (v : Word) (l : List Access) : (s.setSp v).waits l = s.waits l :=
  State.waits_congr (by simp) (by simp) (by simp) l
@[simp] theorem State.setPc_waits (s : State) (v : Word) (l : List Access) : (s.setPc v).waits l = s.waits l :=
  State.waits_congr (by simp) (by simp) (by simp) l
@[simp] theorem State.setI_waits (s : State) (v : Byte) (l : List Access) : (s.setI v).waits l = s.waits l :=
  State.waits_congr (by simp) (by simp) (by simp) l
@[simp] theorem State.setR_waits (s : State) (v : Byte) (l : List Access) : (s.setR v).waits l = s.waits l :=
  State.waits_congr (by simp) (by simp) (by simp) l
@[simp] theorem State.setMemptr_waits (s : State) (v : Word) (l : List Access) : (s.setMemptr v).waits l = s.waits l :=
  State.waits_congr (by simp) (by simp) (by simp) l
@[simp] theorem State.setPfx_waits (s : State) (p : Pfx) (l : List Access) : (s.setPfx p).waits l = s.waits l :=
  State.waits_congr (by simp) (by simp) (by simp) l
@[simp] theorem State.setIff_waits (s : State) (i j : Bool) (l : List Access) : (s.setIff i j).waits l = s.waits l :=
  State.waits_congr (by simp) (by simp) (by simp) l
@[simp] theorem State.setIm_waits (s : State) (m : IntMode) (l : List Access) : (s.setIm m).waits l = s.waits l :=
  State.waits_congr (by simp) (by simp) (by simp) l
@[simp] theorem State.setHalted_waits (s : State) (b : Bool) (l : List Access) : (s.setHalted b).waits l = s.waits l :=
  State.waits_congr (by simp) (by simp) (by simp) l
@[simp] theorem State.setEiBlock_waits (s : State) (b : Bool) (l : List Access) : (s.setEiBlock b).waits l = s.waits l :=
  State.waits_congr (by simp) (by simp) (by simp) l
@[simp] theorem State.setNmiPending_waits (s : State) (b : Bool) (l : List Access) : (s.setNmiPending b).waits l = s.waits l :=
  State.waits_congr (by simp) (by simp) (by simp) l
@[simp] theorem State.bumpR_waits (s : State) (l : List Access) : (s.bumpR).waits l = s.waits l :=
  State.waits_congr (by simp) (by simp) (by simp) l
@[simp] theorem State.setXy_waits (s : State) (x : IndexReg) (v : Word) (l : List Access) : (s.setXy x v).waits l = s.waits l :=
  State.waits_congr (by simp) (by simp) (by simp) l
@[simp] theorem State.setXyHalf_waits (s : State) (x : IndexReg) (h : Half) (v : Byte) (l : List Access) : (s.setXyHalf x h v).waits l = s.waits l :=
  State.waits_congr (by simp) (by simp) (by simp) l
@[simp] theorem State.setRegX_waits (s : State) (x : IndexReg) (r : Reg8X) (v : Byte) (l : List Access) : (s.setRegX x r v).waits l = s.waits l :=
  State.waits_congr (by simp) (by simp) (by simp) l
@[simp] theorem State.setRp_waits (s : State) (p : RegPair) (v : Word) (l : List Access) : (s.setRp p v).waits l = s.waits l :=
  State.waits_congr (by simp) (by simp) (by simp) l
@[simp] theorem State.setStackPair_waits (s : State) (p : StackPair) (v : Word) (l : List Access) : (s.setStackPair p v).waits l = s.waits l :=
  State.waits_congr (by simp) (by simp) (by simp) l
@[simp] theorem State.memWrite_waits (s : State) (a : Word) (v : Byte) (l : List Access) : (s.memWrite a v).waits l = s.waits l :=
  State.waits_congr (by simp) (by simp) (by simp) l
@[simp] theorem State.memWrite16_waits (s : State) (a v : Word) (l : List Access) : (s.memWrite16 a v).waits l = s.waits l :=
  State.waits_congr (by simp) (by simp) (by simp) l

end Sys2Proof.Machine
end

