-- ==== Sys2Proof/Laws/Ops.lean ====
section
/-! SUPPORT. What each shared operation over memory, stack and interrupts can do, said once. -/

namespace Sys2Proof.Machine

/-! ### Outcomes -/

theorem andThen_next {α β : Type} {o : Host.Outcome α Fault Refusal} {k : α → Host.Outcome β Fault Refusal} {y : β} :
    andThen o k = .next y ↔ ∃ x, o = .next x ∧ k x = .next y := by
  cases o <;> simp [andThen]

theorem andThen_fault {α β : Type} {o : Host.Outcome α Fault Refusal} {k : α → Host.Outcome β Fault Refusal} {e : Fault} :
    andThen o k = .fault e ↔ o = .fault e ∨ ∃ x, o = .next x ∧ k x = .fault e := by
  cases o <;> simp [andThen]

theorem andThen_refused {α β : Type} {o : Host.Outcome α Fault Refusal} {k : α → Host.Outcome β Fault Refusal}
    {r : Refusal} : andThen o k = .refused r ↔ o = .refused r ∨ ∃ x, o = .next x ∧ k x = .refused r := by
  cases o <;> simp [andThen]

@[simp] theorem andThen_of_next {α β : Type} (x : α) (k : α → Host.Outcome β Fault Refusal) :
    andThen (.next x) k = k x := rfl

/-! ### Memory -/

/-- `MemWrite` changes the byte at its address, unless that is ROM, and nothing else. -/
theorem State.memWrite_stored (s : State) (a : Word) (v : Byte) : Stored s.mem (s.memWrite a v).mem a v := by
  intro k
  unfold State.memWrite isRom
  split
  · rename_i h
    simp only [decide_eq_true_eq] at h
    rw [if_neg (by omega)]
  · rename_i h
    simp only [decide_eq_true_eq] at h
    rw [Memory.read_store]
    by_cases hk : k = a.toNat
    · subst k
      simp [Nat.not_lt.mp h]
    · simp [hk]

theorem Word.add_one_ne (a : Word) : (a + 1).toNat ≠ a.toNat := by
  have := a.isLt
  simp only [BitVec.toNat_add]
  show (a.toNat + 1) % 65536 ≠ a.toNat
  omega

/-- `MemWrite16` changes its two bytes, each unless it is ROM, and nothing else. -/
theorem State.memWrite16_stored (s : State) (a v : Word) : StoredWord s.mem (s.memWrite16 a v).mem a v := by
  intro k
  unfold State.memWrite16
  rw [State.memWrite_stored]
  split
  · rfl
  · rw [State.memWrite_stored]
    rfl

/-- `Push` changes the two bytes below SP, each unless it is ROM, and nothing else. -/
theorem State.push_stored (s : State) (v : Word) : StoredWord s.mem (s.push v).mem (s.cpu.sp - 2) v := by
  intro k
  unfold State.push
  rw [State.setSp_mem, State.memWrite_stored, State.memWrite_stored]
  have h1 : s.cpu.sp - 2 + 1 = s.cpu.sp - 1 := by bv_omega
  have h2 := Word.add_one_ne (s.cpu.sp - 2)
  rw [h1] at h2
  rw [h1]
  by_cases h3 : k = (s.cpu.sp - 1).toNat
  · subst k
    simp only [h2, false_and, if_false]
    rfl
  · by_cases h4 : k = (s.cpu.sp - 2).toNat
    · subst k
      simp only [true_and, h3, false_and, if_false]
      rfl
    · simp only [h3, h4, false_and, if_false]

@[simp] theorem State.push_cpu (s : State) (v : Word) : (s.push v).cpu = { s.cpu with sp := s.cpu.sp - 2 } := by
  simp [State.push]
@[simp] theorem State.push_ula (s : State) (v : Word) : (s.push v).ula = s.ula := by simp [State.push]
@[simp] theorem State.push_tape (s : State) (v : Word) : (s.push v).tape = s.tape := by simp [State.push]
@[simp] theorem State.push_env (s : State) (v : Word) : (s.push v).env = s.env := by simp [State.push]
@[simp] theorem State.push_waits (s : State) (v : Word) (l : List Access) : (s.push v).waits l = s.waits l :=
  State.waits_congr (by simp) (by simp) (by simp) l

@[simp] theorem State.popSp_cpu (s : State) : s.popSp.cpu = { s.cpu with sp := s.cpu.sp + 2 } := rfl
@[simp] theorem State.popSp_mem (s : State) : s.popSp.mem = s.mem := rfl
@[simp] theorem State.popSp_ula (s : State) : s.popSp.ula = s.ula := rfl
@[simp] theorem State.popSp_tape (s : State) : s.popSp.tape = s.tape := rfl
@[simp] theorem State.popSp_env (s : State) : s.popSp.env = s.env := rfl
@[simp] theorem State.popSp_waits (s : State) (l : List Access) : s.popSp.waits l = s.waits l :=
  State.waits_congr (by simp) (by simp) (by simp) l

/-- Memory is in canonical form at reset. -/
theorem State.reset_mem_wf : State.reset.mem.wf = true := rfl

/-- The host's placement of bytes keeps memory's canonical form. -/
theorem Memory.wf_place {m : Memory} (bytes : List Byte) (a : Word) (h : m.wf = true) : (m.place a bytes).wf = true := by
  induction bytes generalizing m a with
  | nil => exact h
  | cons b rest ih => exact ih _ (Memory.wf_store a b h)

/-- A `MemWrite` keeps memory's canonical form. -/
@[simp] theorem State.memWrite_wf {s : State} (a : Word) (v : Byte) (h : s.mem.wf = true) : (s.memWrite a v).mem.wf = true := by
  unfold State.memWrite
  split
  · exact h
  · exact Memory.wf_store a v h

/-- A `MemWrite16` keeps memory's canonical form. -/
@[simp] theorem State.memWrite16_wf {s : State} (a v : Word) (h : s.mem.wf = true) : (s.memWrite16 a v).mem.wf = true :=
  State.memWrite_wf _ _ (State.memWrite_wf _ _ h)

/-- A `Push` keeps memory's canonical form. -/
@[simp] theorem State.push_wf {s : State} (v : Word) (h : s.mem.wf = true) : (s.push v).mem.wf = true :=
  State.memWrite_wf _ _ (State.memWrite_wf _ _ h)

/-- A `MemWrite` leaves ROM as it is. -/
@[simp] theorem State.memWrite_rom (s : State) (a : Word) (v : Byte) {k : Nat} (hk : k < ramStart) :
    (s.memWrite a v).mem.read k = s.mem.read k := by
  rw [State.memWrite_stored, if_neg (by omega)]

/-- A `MemWrite16` leaves ROM as it is. -/
@[simp] theorem State.memWrite16_rom (s : State) (a v : Word) {k : Nat} (hk : k < ramStart) :
    (s.memWrite16 a v).mem.read k = s.mem.read k := by
  unfold State.memWrite16
  rw [State.memWrite_rom _ _ _ hk, State.memWrite_rom _ _ _ hk]

/-- A `Push` leaves ROM as it is. -/
@[simp] theorem State.push_rom (s : State) (v : Word) {k : Nat} (hk : k < ramStart) :
    (s.push v).mem.read k = s.mem.read k := by
  unfold State.push
  rw [State.setSp_mem, State.memWrite_rom _ _ _ hk, State.memWrite_rom _ _ _ hk]

/-! ### Taking an interrupt -/

theorem State.acknowledge_cpu (s : State) (maskable : Bool) :
    (s.acknowledge maskable).cpu =
      { s.cpu with
        halted := false, r := nextR s.cpu.r, iff1 := false, iff2 := if maskable then false else s.cpu.iff2 } := rfl
@[simp] theorem State.acknowledge_mem (s : State) (m : Bool) : (s.acknowledge m).mem = s.mem := rfl
@[simp] theorem State.acknowledge_ula (s : State) (m : Bool) : (s.acknowledge m).ula = s.ula := rfl
@[simp] theorem State.acknowledge_tape (s : State) (m : Bool) : (s.acknowledge m).tape = s.tape := rfl
@[simp] theorem State.acknowledge_env (s : State) (m : Bool) : (s.acknowledge m).env = s.env := rfl
@[simp] theorem State.acknowledge_waits (s : State) (m : Bool) (l : List Access) :
    (s.acknowledge m).waits l = s.waits l :=
  State.waits_congr (by simp) (by simp [State.acknowledge_cpu]) (by simp) l

/-- Entering a handler: the return address is pushed, PC and MEMPTR take the handler's address. -/
theorem State.enterHandler_cpu (s : State) (target : State → Word) (n : Nat) (l : List Access) :
    (s.enterHandler target n l).cpu =
      { s.cpu with
        sp := s.cpu.sp - 2, pc := target (s.push s.cpu.pc), memptr := target (s.push s.cpu.pc)
        tacts := s.cpu.tacts + n + s.waits (s.pushAccesses ++ l) } := by
  simp only [State.enterHandler, State.charge_cpu, State.setMemptr_cpu, State.setPc_cpu, State.push_cpu,
    State.setMemptr_waits, State.setPc_waits, State.push_waits]
@[simp] theorem State.enterHandler_mem (s : State) (f : State → Word) (n : Nat) (l : List Access) :
    (s.enterHandler f n l).mem = (s.push s.cpu.pc).mem := by
  simp only [State.enterHandler, State.charge_mem, State.setMemptr_mem, State.setPc_mem]
@[simp] theorem State.enterHandler_ula (s : State) (f : State → Word) (n : Nat) (l : List Access) :
    (s.enterHandler f n l).ula = s.ula := by
  simp only [State.enterHandler, State.charge_ula, State.setMemptr_ula, State.setPc_ula, State.push_ula]
@[simp] theorem State.enterHandler_tape (s : State) (f : State → Word) (n : Nat) (l : List Access) :
    (s.enterHandler f n l).tape = s.tape := by
  simp only [State.enterHandler, State.charge_tape, State.setMemptr_tape, State.setPc_tape, State.push_tape]
@[simp] theorem State.enterHandler_env (s : State) (f : State → Word) (n : Nat) (l : List Access) :
    (s.enterHandler f n l).env = s.env := by
  simp only [State.enterHandler, State.charge_env, State.setMemptr_env, State.setPc_env, State.push_env]

end Sys2Proof.Machine
end

