-- ==== Sys2Proof/Laws/Forms.lean ====
section
/-! SUPPORT. The words and the flag bytes said bit by bit, and each operand form said once: what it takes to know the whole
effect of an instruction of that form. -/

namespace Sys2Proof.Machine

/-! ### Words and their bytes -/

@[simp] theorem highByte_word (hi lo : Byte) : highByte (word hi lo) = hi := by
  unfold highByte word
  ext i hi'
  simp only [BitVec.getElem_extractLsb', BitVec.getLsbD_append]
  rw [if_neg (by omega), show 8 + i - 8 = i by omega, BitVec.getLsbD_eq_getElem hi']

@[simp] theorem lowByte_word (hi lo : Byte) : lowByte (word hi lo) = lo := by
  unfold lowByte word
  ext i hi'
  simp only [BitVec.getElem_extractLsb', BitVec.getLsbD_append]
  rw [if_pos (by omega), Nat.zero_add, BitVec.getLsbD_eq_getElem hi']

theorem lowByte_toNat (w : Word) : (lowByte w).toNat = w.toNat % 256 := by
  simp [lowByte, BitVec.extractLsb'_toNat]

theorem highByte_toNat (w : Word) : (highByte w).toNat = w.toNat / 256 := by
  have := w.isLt
  simp only [highByte, BitVec.extractLsb'_toNat, Nat.shiftRight_eq_div_pow]
  omega

theorem word_toNat (hi lo : Byte) : (word hi lo).toNat = hi.toNat * 256 + lo.toNat := by
  have := highByte_toNat (word hi lo)
  have := lowByte_toNat (word hi lo)
  rw [highByte_word] at *
  rw [lowByte_word] at *
  omega

@[simp] theorem word_high_low (w : Word) : word (highByte w) (lowByte w) = w :=
  BitVec.eq_of_toNat_eq (by rw [word_toNat, highByte_toNat, lowByte_toNat]; omega)

theorem lowByte_add_one (w : Word) : lowByte (w + 1#16) = lowByte w + 1#8 := by
  apply BitVec.eq_of_toNat_eq
  rw [lowByte_toNat, BitVec.toNat_add, BitVec.toNat_add, lowByte_toNat]
  show (w.toNat + 1) % 65536 % 256 = (w.toNat % 256 + 1) % 256
  omega

theorem lowByte_sub_one (w : Word) : lowByte (w - 1#16) = lowByte w - 1#8 := by
  apply BitVec.eq_of_toNat_eq
  rw [lowByte_toNat, BitVec.toNat_sub, BitVec.toNat_sub, lowByte_toNat]
  show (65535 + w.toNat) % 65536 % 256 = (255 + w.toNat % 256) % 256
  omega

/-! ### Pairs read after they are written -/

@[simp] theorem State.setBc_bc (s : State) (v : Word) : (s.setBc v).bc = v := word_high_low v
@[simp] theorem State.setDe_de (s : State) (v : Word) : (s.setDe v).de = v := word_high_low v
@[simp] theorem State.setHl_hl (s : State) (v : Word) : (s.setHl v).hl = v := word_high_low v
@[simp] theorem State.setAf_af (s : State) (v : Word) : (s.setAf v).af = v := word_high_low v
@[simp] theorem State.setF_bc (s : State) (v : Byte) : (s.setF v).bc = s.bc := rfl
@[simp] theorem State.setMemptr_bc (s : State) (v : Word) : (s.setMemptr v).bc = s.bc := rfl

/-- The count after one LDI or LDD. -/
@[simp] theorem ldBlock_bc (dir : Dir) (s : State) : (ldBlock dir s).bc = s.bc - 1 := by simp [ldBlock]

/-- The count after one CPI or CPD. -/
@[simp] theorem cpBlock_bc (dir : Dir) (s : State) : (cpBlock dir s).bc = s.bc - 1 := by simp [cpBlock]

theorem Word.sub_one_eq_zero (w : Word) : w - 1 = 0 ↔ w = 1 := by bv_omega

theorem Byte.sub_one_eq_zero (v : Byte) : v - 1 = 0 ↔ v = 1 := by bv_omega

/-! ### Conditions -/

theorem condHolds_iff (f : Byte) (cc : Cond) : condHolds f cc = true ↔ CondTrue f cc := by
  cases cc <;> simp [condHolds, CondTrue, flagZ, flagC, flagPV, flagS]

theorem jrCondHolds_iff (f : Byte) (jc : JrCond) : jrCondHolds f jc = true ↔ CondTrue f (jrCondOf jc) := by
  cases jc <;> simp [jrCondHolds, jrCondOf, CondTrue, flagZ, flagC]

/-! ### Flag bytes -/

/-- The eight bits of `mkF`, in the order it takes them. -/
theorem mkF_bits (s z y h x pv n c : Bool) : FlagBits (mkF s z y h x pv n c) s z y h x pv n c := by
  revert s z y h x pv n c
  unfold FlagBits
  decide

/-- The parity of `mkF`'s callers is the counted parity. -/
theorem evenOnes_eq_parity (v : Byte) : evenOnes v = parity v := by
  revert v
  decide

theorem getLsbD_seven (v : Byte) : v.getLsbD 7 = decide (128 ≤ v.toNat) := by
  revert v
  decide

theorem beq_zero (v : Byte) : (v == 0) = decide (v.toNat = 0) := by
  revert v
  decide

/-- The bits of an `mkF` whose S, Z, Y, X come from a result. -/
theorem mkF_result (res : Byte) (h pv n c : Bool) :
    ResultFlags (mkF (res.getLsbD 7) (res == 0) (res.getLsbD 5) h (res.getLsbD 3) pv n c) res h pv n c := by
  unfold ResultFlags
  rw [← getLsbD_seven, ← beq_zero]
  exact mkF_bits _ _ _ _ _ _ _ _

/-! ### How an instruction meets its frame -/

theorem SetsCpu.of_next {i : Instr} {s t : State} {cpu : Cpu} (h : exec i s = .next t) (hc : t.cpu = cpu)
    (hm : t.mem = s.mem) (hu : t.ula = s.ula) (ht : t.tape = s.tape) (he : t.env = s.env) : SetsCpu i s cpu :=
  ⟨t, h, hc, fun _ => by rw [hm], hu, ht, he⟩

theorem SetsByte.of_next {i : Instr} {s t : State} {cpu : Cpu} {a : Word} {v : Byte} (h : exec i s = .next t)
    (hc : t.cpu = cpu) (hm : t.mem = (s.memWrite a v).mem) (hu : t.ula = s.ula) (ht : t.tape = s.tape)
    (he : t.env = s.env) : SetsByte i s cpu a v :=
  ⟨t, h, hc, hm ▸ State.memWrite_stored s a v, hu, ht, he⟩

theorem SetsWord.of_next {i : Instr} {s t : State} {cpu : Cpu} {a v : Word} (h : exec i s = .next t) (hc : t.cpu = cpu)
    (hm : StoredWord s.mem t.mem a v) (hu : t.ula = s.ula) (ht : t.tape = s.tape) (he : t.env = s.env) :
    SetsWord i s cpu a v :=
  ⟨t, h, hc, hm, hu, ht, he⟩

/-- What a `MemWrite` does to memory depends on memory alone. -/
theorem State.memWrite_mem_congr {s t : State} (h : t.mem = s.mem) (a : Word) (v : Byte) :
    (t.memWrite a v).mem = (s.memWrite a v).mem := by
  unfold State.memWrite
  split
  · exact h
  · simp only [h]

/-! ### The operand forms -/

/-- The five forms of an accumulator operation do to A and F what the operation does to its operand. -/
theorem AluForms.of_op {reg : Reg8 → Instr} {immediate : Byte → Instr} {memHl : Instr} {memXy : IndexReg → Byte → Instr}
    {half : IndexReg → Half → Instr} {P : Byte → Byte → Byte → Byte → Byte → Prop} (op : AluOp)
    (hreg : ∀ r s, exec (reg r) s = .next (aluOnReg op r s))
    (himm : ∀ n s, exec (immediate n) s = .next (aluOnImmediate op n s))
    (hhl : ∀ s, exec memHl s = .next (aluOnMemHl op s))
    (hxy : ∀ x d s, exec (memXy x d) s = .next (aluOnMemXy op x d s))
    (hhalf : ∀ x h s, exec (half x h) s = .next (aluOnXyHalf op x h s))
    (hop : ∀ a f v, P a f v (aluResult op a f v).1 (aluResult op a f v).2) : AluForms reg immediate memHl memXy half P :=
  fun _ =>
    ⟨fun r => ⟨_, _, hop _ _ _, .of_next (hreg r _) rfl rfl rfl rfl rfl⟩,
      fun n => ⟨_, _, hop _ _ _, .of_next (himm n _) rfl rfl rfl rfl rfl⟩,
      ⟨_, _, hop _ _ _, .of_next (hhl _) rfl rfl rfl rfl rfl⟩,
      fun x d => ⟨_, _, hop _ _ _, .of_next (hxy x d _) rfl rfl rfl rfl rfl⟩,
      fun x h => ⟨_, _, hop _ _ _, .of_next (hhalf x h _) rfl rfl rfl rfl rfl⟩⟩

/-- The register, (HL) and (XY+d) forms of a byte operation do what it does to the byte and F. -/
theorem ModifyForms.of_op {reg : Reg8 → Instr} {memHl : Instr} {memXy : IndexReg → Byte → Instr} {n : Nat}
    {P : Byte → Byte → Byte → Byte → Prop} (op : ByteOp) (hreg : ∀ r s, exec (reg r) s = .next (modifyReg op r 4 s))
    (hhl : ∀ s, exec memHl s = .next (modifyMem op s.hl 11 s))
    (hxy : ∀ x d s, exec (memXy x d) s = .next (modifyMemXy op x d n s))
    (hop : ∀ v f, P v f (op v f).1 (op v f).2) : ModifyForms reg memHl memXy n P := by
  refine fun s => ⟨fun r => ⟨_, _, hop _ _, .of_next (hreg r s) (by cases r <;> rfl) rfl rfl rfl rfl⟩,
    ⟨_, _, hop _ _, .of_next (hhl s) ?_ ?_ ?_ ?_ ?_⟩, fun x d => ⟨_, _, hop _ _, .of_next (hxy x d s) ?_ ?_ ?_ ?_ ?_⟩⟩
  · simp [modifyMem, State.after, State.memRead]
  · simp [modifyMem, State.memRead]
  · simp [modifyMem]
  · simp [modifyMem]
  · simp [modifyMem]
  · simp [modifyMemXy, modifyMem, State.after, State.memRead, State.indexAddress]
  · simpa [modifyMemXy, modifyMem, State.memRead, State.indexAddress] using State.memWrite_mem_congr (by simp) _ _
  · simp [modifyMemXy, modifyMem]
  · simp [modifyMemXy, modifyMem]
  · simp [modifyMemXy, modifyMem]

/-- The XYH/XYL form of a byte operation does what it does to the byte and F. -/
theorem ModifyHalf.of_op {half : IndexReg → Half → Instr} {P : Byte → Byte → Byte → Byte → Prop} (op : ByteOp)
    (hhalf : ∀ x h s, exec (half x h) s = .next (modifyXyHalf op x h 4 s))
    (hop : ∀ v f, P v f (op v f).1 (op v f).2) : ModifyHalf half P := by
  refine fun s x h => ⟨_, _, hop _ _, .of_next (hhalf x h s) ?_ ?_ ?_ ?_ ?_⟩ <;> cases x <;> cases h <;> rfl

/-- The copying (XY+d) form of a byte operation does what it does to the byte and F, and copies the result. -/
theorem ModifyCopy.of_op {copy : IndexReg → Byte → Reg8 → Instr} {P : Byte → Byte → Byte → Byte → Prop} (op : ByteOp)
    (hcopy : ∀ x d r s, exec (copy x d r) s = .next (modifyMemXyCopy op x d r 15 s))
    (hop : ∀ v f, P v f (op v f).1 (op v f).2) : ModifyCopy copy P := by
  refine fun s x d r => ⟨_, _, hop _ _, .of_next (hcopy x d r s) ?_ ?_ ?_ ?_ ?_⟩
  · cases r <;>
      simp [modifyMemXyCopy, modifyMemXy, modifyMem, State.after, State.memRead, State.indexAddress, Cpu.setReg]
  · simpa [modifyMemXyCopy, modifyMemXy, modifyMem, State.memRead, State.indexAddress] using
      State.memWrite_mem_congr (by simp) _ _
  · simp [modifyMemXyCopy, modifyMemXy, modifyMem]
  · simp [modifyMemXyCopy, modifyMemXy, modifyMem]
  · simp [modifyMemXyCopy, modifyMemXy, modifyMem]

end Sys2Proof.Machine
end

