-- ==== Sys2Proof/Laws/PerInstr.lean ====
section
/-! SUPPORT. One lemma per constructor of Instr: the length of its encoding (30_encoding.md R110). -/

namespace Sys2Proof.Laws.Length

/-- The encoding of a well-formed instruction has one to four bytes (30_encoding.md R110). -/
def Statement (i : Instr) : Prop := i.wellFormed = true → 1 ≤ (encode i).length ∧ (encode i).length ≤ 4

/-- An instruction an index prefix leaves alone is at most three bytes long, so the prefix fits before it. -/
theorem ignoring_le_three {i : Instr} (h : i.ignoresPrefix = true) : (encode i).length ≤ 3 := by
  cases i <;> first
    | exact Nat.le_of_ble_eq_true rfl
    | exact absurd h Bool.false_ne_true

theorem nop : Statement .nop :=
  fun _ => ⟨Nat.le_of_ble_eq_true rfl, Nat.le_of_ble_eq_true rfl⟩
theorem ldRpNn (rp : RegPair) (nn : Word) : Statement (.ldRpNn rp nn) :=
  fun _ => ⟨Nat.le_of_ble_eq_true rfl, Nat.le_of_ble_eq_true rfl⟩
theorem ldMemBcA : Statement .ldMemBcA :=
  fun _ => ⟨Nat.le_of_ble_eq_true rfl, Nat.le_of_ble_eq_true rfl⟩
theorem ldMemDeA : Statement .ldMemDeA :=
  fun _ => ⟨Nat.le_of_ble_eq_true rfl, Nat.le_of_ble_eq_true rfl⟩
theorem ldMemNnHl (nn : Word) : Statement (.ldMemNnHl nn) :=
  fun _ => ⟨Nat.le_of_ble_eq_true rfl, Nat.le_of_ble_eq_true rfl⟩
theorem ldMemNnA (nn : Word) : Statement (.ldMemNnA nn) :=
  fun _ => ⟨Nat.le_of_ble_eq_true rfl, Nat.le_of_ble_eq_true rfl⟩
theorem incRp (rp : RegPair) : Statement (.incRp rp) :=
  fun _ => ⟨Nat.le_of_ble_eq_true rfl, Nat.le_of_ble_eq_true rfl⟩
theorem decRp (rp : RegPair) : Statement (.decRp rp) :=
  fun _ => ⟨Nat.le_of_ble_eq_true rfl, Nat.le_of_ble_eq_true rfl⟩
theorem incR (r : Reg8) : Statement (.incR r) :=
  fun _ => ⟨Nat.le_of_ble_eq_true rfl, Nat.le_of_ble_eq_true rfl⟩
theorem incMemHl : Statement .incMemHl :=
  fun _ => ⟨Nat.le_of_ble_eq_true rfl, Nat.le_of_ble_eq_true rfl⟩
theorem decR (r : Reg8) : Statement (.decR r) :=
  fun _ => ⟨Nat.le_of_ble_eq_true rfl, Nat.le_of_ble_eq_true rfl⟩
theorem decMemHl : Statement .decMemHl :=
  fun _ => ⟨Nat.le_of_ble_eq_true rfl, Nat.le_of_ble_eq_true rfl⟩
theorem ldRN (r : Reg8) (n : Byte) : Statement (.ldRN r n) :=
  fun _ => ⟨Nat.le_of_ble_eq_true rfl, Nat.le_of_ble_eq_true rfl⟩
theorem ldMemHlN (n : Byte) : Statement (.ldMemHlN n) :=
  fun _ => ⟨Nat.le_of_ble_eq_true rfl, Nat.le_of_ble_eq_true rfl⟩
theorem rlca : Statement .rlca :=
  fun _ => ⟨Nat.le_of_ble_eq_true rfl, Nat.le_of_ble_eq_true rfl⟩
theorem rrca : Statement .rrca :=
  fun _ => ⟨Nat.le_of_ble_eq_true rfl, Nat.le_of_ble_eq_true rfl⟩
theorem rla : Statement .rla :=
  fun _ => ⟨Nat.le_of_ble_eq_true rfl, Nat.le_of_ble_eq_true rfl⟩
theorem rra : Statement .rra :=
  fun _ => ⟨Nat.le_of_ble_eq_true rfl, Nat.le_of_ble_eq_true rfl⟩
theorem daa : Statement .daa :=
  fun _ => ⟨Nat.le_of_ble_eq_true rfl, Nat.le_of_ble_eq_true rfl⟩
theorem cpl : Statement .cpl :=
  fun _ => ⟨Nat.le_of_ble_eq_true rfl, Nat.le_of_ble_eq_true rfl⟩
theorem scf : Statement .scf :=
  fun _ => ⟨Nat.le_of_ble_eq_true rfl, Nat.le_of_ble_eq_true rfl⟩
theorem ccf : Statement .ccf :=
  fun _ => ⟨Nat.le_of_ble_eq_true rfl, Nat.le_of_ble_eq_true rfl⟩
theorem exAfAf : Statement .exAfAf :=
  fun _ => ⟨Nat.le_of_ble_eq_true rfl, Nat.le_of_ble_eq_true rfl⟩
theorem addHlRp (rp : RegPair) : Statement (.addHlRp rp) :=
  fun _ => ⟨Nat.le_of_ble_eq_true rfl, Nat.le_of_ble_eq_true rfl⟩
theorem ldAMemBc : Statement .ldAMemBc :=
  fun _ => ⟨Nat.le_of_ble_eq_true rfl, Nat.le_of_ble_eq_true rfl⟩
theorem ldAMemDe : Statement .ldAMemDe :=
  fun _ => ⟨Nat.le_of_ble_eq_true rfl, Nat.le_of_ble_eq_true rfl⟩
theorem ldHlMemNn (nn : Word) : Statement (.ldHlMemNn nn) :=
  fun _ => ⟨Nat.le_of_ble_eq_true rfl, Nat.le_of_ble_eq_true rfl⟩
theorem ldAMemNn (nn : Word) : Statement (.ldAMemNn nn) :=
  fun _ => ⟨Nat.le_of_ble_eq_true rfl, Nat.le_of_ble_eq_true rfl⟩
theorem djnz (e : Byte) : Statement (.djnz e) :=
  fun _ => ⟨Nat.le_of_ble_eq_true rfl, Nat.le_of_ble_eq_true rfl⟩
theorem jr (e : Byte) : Statement (.jr e) :=
  fun _ => ⟨Nat.le_of_ble_eq_true rfl, Nat.le_of_ble_eq_true rfl⟩
theorem jrCc (cond : JrCond) (e : Byte) : Statement (.jrCc cond e) :=
  fun _ => ⟨Nat.le_of_ble_eq_true rfl, Nat.le_of_ble_eq_true rfl⟩
theorem ldRR (dst : Reg8) (src : Reg8) : Statement (.ldRR dst src) :=
  fun _ => ⟨Nat.le_of_ble_eq_true rfl, Nat.le_of_ble_eq_true rfl⟩
theorem ldRMemHl (r : Reg8) : Statement (.ldRMemHl r) :=
  fun _ => ⟨Nat.le_of_ble_eq_true rfl, Nat.le_of_ble_eq_true rfl⟩
theorem ldMemHlR (r : Reg8) : Statement (.ldMemHlR r) :=
  fun _ => ⟨Nat.le_of_ble_eq_true rfl, Nat.le_of_ble_eq_true rfl⟩
theorem halt : Statement .halt :=
  fun _ => ⟨Nat.le_of_ble_eq_true rfl, Nat.le_of_ble_eq_true rfl⟩
theorem addAR (r : Reg8) : Statement (.addAR r) :=
  fun _ => ⟨Nat.le_of_ble_eq_true rfl, Nat.le_of_ble_eq_true rfl⟩
theorem addAMemHl : Statement .addAMemHl :=
  fun _ => ⟨Nat.le_of_ble_eq_true rfl, Nat.le_of_ble_eq_true rfl⟩
theorem addAN (n : Byte) : Statement (.addAN n) :=
  fun _ => ⟨Nat.le_of_ble_eq_true rfl, Nat.le_of_ble_eq_true rfl⟩
theorem adcAR (r : Reg8) : Statement (.adcAR r) :=
  fun _ => ⟨Nat.le_of_ble_eq_true rfl, Nat.le_of_ble_eq_true rfl⟩
theorem adcAMemHl : Statement .adcAMemHl :=
  fun _ => ⟨Nat.le_of_ble_eq_true rfl, Nat.le_of_ble_eq_true rfl⟩
theorem adcAN (n : Byte) : Statement (.adcAN n) :=
  fun _ => ⟨Nat.le_of_ble_eq_true rfl, Nat.le_of_ble_eq_true rfl⟩
theorem subR (r : Reg8) : Statement (.subR r) :=
  fun _ => ⟨Nat.le_of_ble_eq_true rfl, Nat.le_of_ble_eq_true rfl⟩
theorem subMemHl : Statement .subMemHl :=
  fun _ => ⟨Nat.le_of_ble_eq_true rfl, Nat.le_of_ble_eq_true rfl⟩
theorem subN (n : Byte) : Statement (.subN n) :=
  fun _ => ⟨Nat.le_of_ble_eq_true rfl, Nat.le_of_ble_eq_true rfl⟩
theorem sbcAR (r : Reg8) : Statement (.sbcAR r) :=
  fun _ => ⟨Nat.le_of_ble_eq_true rfl, Nat.le_of_ble_eq_true rfl⟩
theorem sbcAMemHl : Statement .sbcAMemHl :=
  fun _ => ⟨Nat.le_of_ble_eq_true rfl, Nat.le_of_ble_eq_true rfl⟩
theorem sbcAN (n : Byte) : Statement (.sbcAN n) :=
  fun _ => ⟨Nat.le_of_ble_eq_true rfl, Nat.le_of_ble_eq_true rfl⟩
theorem andR (r : Reg8) : Statement (.andR r) :=
  fun _ => ⟨Nat.le_of_ble_eq_true rfl, Nat.le_of_ble_eq_true rfl⟩
theorem andMemHl : Statement .andMemHl :=
  fun _ => ⟨Nat.le_of_ble_eq_true rfl, Nat.le_of_ble_eq_true rfl⟩
theorem andN (n : Byte) : Statement (.andN n) :=
  fun _ => ⟨Nat.le_of_ble_eq_true rfl, Nat.le_of_ble_eq_true rfl⟩
theorem xorR (r : Reg8) : Statement (.xorR r) :=
  fun _ => ⟨Nat.le_of_ble_eq_true rfl, Nat.le_of_ble_eq_true rfl⟩
theorem xorMemHl : Statement .xorMemHl :=
  fun _ => ⟨Nat.le_of_ble_eq_true rfl, Nat.le_of_ble_eq_true rfl⟩
theorem xorN (n : Byte) : Statement (.xorN n) :=
  fun _ => ⟨Nat.le_of_ble_eq_true rfl, Nat.le_of_ble_eq_true rfl⟩
theorem orR (r : Reg8) : Statement (.orR r) :=
  fun _ => ⟨Nat.le_of_ble_eq_true rfl, Nat.le_of_ble_eq_true rfl⟩
theorem orMemHl : Statement .orMemHl :=
  fun _ => ⟨Nat.le_of_ble_eq_true rfl, Nat.le_of_ble_eq_true rfl⟩
theorem orN (n : Byte) : Statement (.orN n) :=
  fun _ => ⟨Nat.le_of_ble_eq_true rfl, Nat.le_of_ble_eq_true rfl⟩
theorem cpR (r : Reg8) : Statement (.cpR r) :=
  fun _ => ⟨Nat.le_of_ble_eq_true rfl, Nat.le_of_ble_eq_true rfl⟩
theorem cpMemHl : Statement .cpMemHl :=
  fun _ => ⟨Nat.le_of_ble_eq_true rfl, Nat.le_of_ble_eq_true rfl⟩
theorem cpN (n : Byte) : Statement (.cpN n) :=
  fun _ => ⟨Nat.le_of_ble_eq_true rfl, Nat.le_of_ble_eq_true rfl⟩
theorem retCc (cond : Cond) : Statement (.retCc cond) :=
  fun _ => ⟨Nat.le_of_ble_eq_true rfl, Nat.le_of_ble_eq_true rfl⟩
theorem popQq (q : StackPair) : Statement (.popQq q) :=
  fun _ => ⟨Nat.le_of_ble_eq_true rfl, Nat.le_of_ble_eq_true rfl⟩
theorem ret : Statement .ret :=
  fun _ => ⟨Nat.le_of_ble_eq_true rfl, Nat.le_of_ble_eq_true rfl⟩
theorem exx : Statement .exx :=
  fun _ => ⟨Nat.le_of_ble_eq_true rfl, Nat.le_of_ble_eq_true rfl⟩
theorem jpHl : Statement .jpHl :=
  fun _ => ⟨Nat.le_of_ble_eq_true rfl, Nat.le_of_ble_eq_true rfl⟩
theorem ldSpHl : Statement .ldSpHl :=
  fun _ => ⟨Nat.le_of_ble_eq_true rfl, Nat.le_of_ble_eq_true rfl⟩
theorem jpCcNn (cond : Cond) (nn : Word) : Statement (.jpCcNn cond nn) :=
  fun _ => ⟨Nat.le_of_ble_eq_true rfl, Nat.le_of_ble_eq_true rfl⟩
theorem jpNn (nn : Word) : Statement (.jpNn nn) :=
  fun _ => ⟨Nat.le_of_ble_eq_true rfl, Nat.le_of_ble_eq_true rfl⟩
theorem prefixCb : Statement .prefixCb :=
  fun _ => ⟨Nat.le_of_ble_eq_true rfl, Nat.le_of_ble_eq_true rfl⟩
theorem outNA (n : Byte) : Statement (.outNA n) :=
  fun _ => ⟨Nat.le_of_ble_eq_true rfl, Nat.le_of_ble_eq_true rfl⟩
theorem inAN (n : Byte) : Statement (.inAN n) :=
  fun _ => ⟨Nat.le_of_ble_eq_true rfl, Nat.le_of_ble_eq_true rfl⟩
theorem exMemSpHl : Statement .exMemSpHl :=
  fun _ => ⟨Nat.le_of_ble_eq_true rfl, Nat.le_of_ble_eq_true rfl⟩
theorem exDeHl : Statement .exDeHl :=
  fun _ => ⟨Nat.le_of_ble_eq_true rfl, Nat.le_of_ble_eq_true rfl⟩
theorem di : Statement .di :=
  fun _ => ⟨Nat.le_of_ble_eq_true rfl, Nat.le_of_ble_eq_true rfl⟩
theorem ei : Statement .ei :=
  fun _ => ⟨Nat.le_of_ble_eq_true rfl, Nat.le_of_ble_eq_true rfl⟩
theorem callCcNn (cond : Cond) (nn : Word) : Statement (.callCcNn cond nn) :=
  fun _ => ⟨Nat.le_of_ble_eq_true rfl, Nat.le_of_ble_eq_true rfl⟩
theorem pushQq (q : StackPair) : Statement (.pushQq q) :=
  fun _ => ⟨Nat.le_of_ble_eq_true rfl, Nat.le_of_ble_eq_true rfl⟩
theorem callNn (nn : Word) : Statement (.callNn nn) :=
  fun _ => ⟨Nat.le_of_ble_eq_true rfl, Nat.le_of_ble_eq_true rfl⟩
theorem prefixDd : Statement .prefixDd :=
  fun _ => ⟨Nat.le_of_ble_eq_true rfl, Nat.le_of_ble_eq_true rfl⟩
theorem prefixEd : Statement .prefixEd :=
  fun _ => ⟨Nat.le_of_ble_eq_true rfl, Nat.le_of_ble_eq_true rfl⟩
theorem prefixFd : Statement .prefixFd :=
  fun _ => ⟨Nat.le_of_ble_eq_true rfl, Nat.le_of_ble_eq_true rfl⟩
theorem rst (t : BitVec 3) : Statement (.rst t) :=
  fun _ => ⟨Nat.le_of_ble_eq_true rfl, Nat.le_of_ble_eq_true rfl⟩
theorem rlcR (r : Reg8) : Statement (.rlcR r) :=
  fun _ => ⟨Nat.le_of_ble_eq_true rfl, Nat.le_of_ble_eq_true rfl⟩
theorem rlcMemHl : Statement .rlcMemHl :=
  fun _ => ⟨Nat.le_of_ble_eq_true rfl, Nat.le_of_ble_eq_true rfl⟩
theorem rrcR (r : Reg8) : Statement (.rrcR r) :=
  fun _ => ⟨Nat.le_of_ble_eq_true rfl, Nat.le_of_ble_eq_true rfl⟩
theorem rrcMemHl : Statement .rrcMemHl :=
  fun _ => ⟨Nat.le_of_ble_eq_true rfl, Nat.le_of_ble_eq_true rfl⟩
theorem rlR (r : Reg8) : Statement (.rlR r) :=
  fun _ => ⟨Nat.le_of_ble_eq_true rfl, Nat.le_of_ble_eq_true rfl⟩
theorem rlMemHl : Statement .rlMemHl :=
  fun _ => ⟨Nat.le_of_ble_eq_true rfl, Nat.le_of_ble_eq_true rfl⟩
theorem rrR (r : Reg8) : Statement (.rrR r) :=
  fun _ => ⟨Nat.le_of_ble_eq_true rfl, Nat.le_of_ble_eq_true rfl⟩
theorem rrMemHl : Statement .rrMemHl :=
  fun _ => ⟨Nat.le_of_ble_eq_true rfl, Nat.le_of_ble_eq_true rfl⟩
theorem slaR (r : Reg8) : Statement (.slaR r) :=
  fun _ => ⟨Nat.le_of_ble_eq_true rfl, Nat.le_of_ble_eq_true rfl⟩
theorem slaMemHl : Statement .slaMemHl :=
  fun _ => ⟨Nat.le_of_ble_eq_true rfl, Nat.le_of_ble_eq_true rfl⟩
theorem sraR (r : Reg8) : Statement (.sraR r) :=
  fun _ => ⟨Nat.le_of_ble_eq_true rfl, Nat.le_of_ble_eq_true rfl⟩
theorem sraMemHl : Statement .sraMemHl :=
  fun _ => ⟨Nat.le_of_ble_eq_true rfl, Nat.le_of_ble_eq_true rfl⟩
theorem sllR (r : Reg8) : Statement (.sllR r) :=
  fun _ => ⟨Nat.le_of_ble_eq_true rfl, Nat.le_of_ble_eq_true rfl⟩
theorem sllMemHl : Statement .sllMemHl :=
  fun _ => ⟨Nat.le_of_ble_eq_true rfl, Nat.le_of_ble_eq_true rfl⟩
theorem srlR (r : Reg8) : Statement (.srlR r) :=
  fun _ => ⟨Nat.le_of_ble_eq_true rfl, Nat.le_of_ble_eq_true rfl⟩
theorem srlMemHl : Statement .srlMemHl :=
  fun _ => ⟨Nat.le_of_ble_eq_true rfl, Nat.le_of_ble_eq_true rfl⟩
theorem bitR (b : BitVec 3) (r : Reg8) : Statement (.bitR b r) :=
  fun _ => ⟨Nat.le_of_ble_eq_true rfl, Nat.le_of_ble_eq_true rfl⟩
theorem bitMemHl (b : BitVec 3) : Statement (.bitMemHl b) :=
  fun _ => ⟨Nat.le_of_ble_eq_true rfl, Nat.le_of_ble_eq_true rfl⟩
theorem resR (b : BitVec 3) (r : Reg8) : Statement (.resR b r) :=
  fun _ => ⟨Nat.le_of_ble_eq_true rfl, Nat.le_of_ble_eq_true rfl⟩
theorem resMemHl (b : BitVec 3) : Statement (.resMemHl b) :=
  fun _ => ⟨Nat.le_of_ble_eq_true rfl, Nat.le_of_ble_eq_true rfl⟩
theorem setR (b : BitVec 3) (r : Reg8) : Statement (.setR b r) :=
  fun _ => ⟨Nat.le_of_ble_eq_true rfl, Nat.le_of_ble_eq_true rfl⟩
theorem setMemHl (b : BitVec 3) : Statement (.setMemHl b) :=
  fun _ => ⟨Nat.le_of_ble_eq_true rfl, Nat.le_of_ble_eq_true rfl⟩
theorem inRC (r : Reg8) : Statement (.inRC r) :=
  fun _ => ⟨Nat.le_of_ble_eq_true rfl, Nat.le_of_ble_eq_true rfl⟩
theorem inC : Statement .inC :=
  fun _ => ⟨Nat.le_of_ble_eq_true rfl, Nat.le_of_ble_eq_true rfl⟩
theorem outCR (r : Reg8) : Statement (.outCR r) :=
  fun _ => ⟨Nat.le_of_ble_eq_true rfl, Nat.le_of_ble_eq_true rfl⟩
theorem outC0 : Statement .outC0 :=
  fun _ => ⟨Nat.le_of_ble_eq_true rfl, Nat.le_of_ble_eq_true rfl⟩
theorem sbcHlRp (rp : RegPair) : Statement (.sbcHlRp rp) :=
  fun _ => ⟨Nat.le_of_ble_eq_true rfl, Nat.le_of_ble_eq_true rfl⟩
theorem adcHlRp (rp : RegPair) : Statement (.adcHlRp rp) :=
  fun _ => ⟨Nat.le_of_ble_eq_true rfl, Nat.le_of_ble_eq_true rfl⟩
theorem ldMemNnRp (rp : RegPair) (nn : Word) : Statement (.ldMemNnRp rp nn) :=
  fun _ => ⟨Nat.le_of_ble_eq_true rfl, Nat.le_of_ble_eq_true rfl⟩
theorem ldRpMemNn (rp : RegPair) (nn : Word) : Statement (.ldRpMemNn rp nn) :=
  fun _ => ⟨Nat.le_of_ble_eq_true rfl, Nat.le_of_ble_eq_true rfl⟩
theorem neg (y : BitVec 3) : Statement (.neg y) :=
  fun _ => ⟨Nat.le_of_ble_eq_true rfl, Nat.le_of_ble_eq_true rfl⟩
theorem retn (y : BitVec 3) : Statement (.retn y) :=
  fun _ => ⟨Nat.le_of_ble_eq_true rfl, Nat.le_of_ble_eq_true rfl⟩
theorem reti : Statement .reti :=
  fun _ => ⟨Nat.le_of_ble_eq_true rfl, Nat.le_of_ble_eq_true rfl⟩
theorem im0 (y : BitVec 1) : Statement (.im0 y) :=
  fun _ => ⟨Nat.le_of_ble_eq_true rfl, Nat.le_of_ble_eq_true rfl⟩
theorem im0Undoc (y : BitVec 1) : Statement (.im0Undoc y) :=
  fun _ => ⟨Nat.le_of_ble_eq_true rfl, Nat.le_of_ble_eq_true rfl⟩
theorem im1 (y : BitVec 1) : Statement (.im1 y) :=
  fun _ => ⟨Nat.le_of_ble_eq_true rfl, Nat.le_of_ble_eq_true rfl⟩
theorem im2 (y : BitVec 1) : Statement (.im2 y) :=
  fun _ => ⟨Nat.le_of_ble_eq_true rfl, Nat.le_of_ble_eq_true rfl⟩
theorem ldIA : Statement .ldIA :=
  fun _ => ⟨Nat.le_of_ble_eq_true rfl, Nat.le_of_ble_eq_true rfl⟩
theorem ldRA : Statement .ldRA :=
  fun _ => ⟨Nat.le_of_ble_eq_true rfl, Nat.le_of_ble_eq_true rfl⟩
theorem ldAI : Statement .ldAI :=
  fun _ => ⟨Nat.le_of_ble_eq_true rfl, Nat.le_of_ble_eq_true rfl⟩
theorem ldAR : Statement .ldAR :=
  fun _ => ⟨Nat.le_of_ble_eq_true rfl, Nat.le_of_ble_eq_true rfl⟩
theorem rrd : Statement .rrd :=
  fun _ => ⟨Nat.le_of_ble_eq_true rfl, Nat.le_of_ble_eq_true rfl⟩
theorem rld : Statement .rld :=
  fun _ => ⟨Nat.le_of_ble_eq_true rfl, Nat.le_of_ble_eq_true rfl⟩
theorem nopEd7 (y : BitVec 1) : Statement (.nopEd7 y) :=
  fun _ => ⟨Nat.le_of_ble_eq_true rfl, Nat.le_of_ble_eq_true rfl⟩
theorem ldi : Statement .ldi :=
  fun _ => ⟨Nat.le_of_ble_eq_true rfl, Nat.le_of_ble_eq_true rfl⟩
theorem ldd : Statement .ldd :=
  fun _ => ⟨Nat.le_of_ble_eq_true rfl, Nat.le_of_ble_eq_true rfl⟩
theorem ldir : Statement .ldir :=
  fun _ => ⟨Nat.le_of_ble_eq_true rfl, Nat.le_of_ble_eq_true rfl⟩
theorem lddr : Statement .lddr :=
  fun _ => ⟨Nat.le_of_ble_eq_true rfl, Nat.le_of_ble_eq_true rfl⟩
theorem cpi : Statement .cpi :=
  fun _ => ⟨Nat.le_of_ble_eq_true rfl, Nat.le_of_ble_eq_true rfl⟩
theorem cpd : Statement .cpd :=
  fun _ => ⟨Nat.le_of_ble_eq_true rfl, Nat.le_of_ble_eq_true rfl⟩
theorem cpir : Statement .cpir :=
  fun _ => ⟨Nat.le_of_ble_eq_true rfl, Nat.le_of_ble_eq_true rfl⟩
theorem cpdr : Statement .cpdr :=
  fun _ => ⟨Nat.le_of_ble_eq_true rfl, Nat.le_of_ble_eq_true rfl⟩
theorem ini : Statement .ini :=
  fun _ => ⟨Nat.le_of_ble_eq_true rfl, Nat.le_of_ble_eq_true rfl⟩
theorem ind : Statement .ind :=
  fun _ => ⟨Nat.le_of_ble_eq_true rfl, Nat.le_of_ble_eq_true rfl⟩
theorem inir : Statement .inir :=
  fun _ => ⟨Nat.le_of_ble_eq_true rfl, Nat.le_of_ble_eq_true rfl⟩
theorem indr : Statement .indr :=
  fun _ => ⟨Nat.le_of_ble_eq_true rfl, Nat.le_of_ble_eq_true rfl⟩
theorem outi : Statement .outi :=
  fun _ => ⟨Nat.le_of_ble_eq_true rfl, Nat.le_of_ble_eq_true rfl⟩
theorem outd : Statement .outd :=
  fun _ => ⟨Nat.le_of_ble_eq_true rfl, Nat.le_of_ble_eq_true rfl⟩
theorem otir : Statement .otir :=
  fun _ => ⟨Nat.le_of_ble_eq_true rfl, Nat.le_of_ble_eq_true rfl⟩
theorem otdr : Statement .otdr :=
  fun _ => ⟨Nat.le_of_ble_eq_true rfl, Nat.le_of_ble_eq_true rfl⟩
theorem nopEd0 (o : BitVec 6) : Statement (.nopEd0 o) :=
  fun _ => ⟨Nat.le_of_ble_eq_true rfl, Nat.le_of_ble_eq_true rfl⟩
theorem nopEd3 (o : BitVec 6) : Statement (.nopEd3 o) :=
  fun _ => ⟨Nat.le_of_ble_eq_true rfl, Nat.le_of_ble_eq_true rfl⟩
theorem nopEd2 (o : BitVec 6) : Statement (.nopEd2 o) :=
  fun _ => ⟨Nat.le_of_ble_eq_true rfl, Nat.le_of_ble_eq_true rfl⟩
theorem addXyRp (xy : IndexReg) (rp : IndexPair) : Statement (.addXyRp xy rp) :=
  fun _ => ⟨Nat.le_of_ble_eq_true rfl, Nat.le_of_ble_eq_true rfl⟩
theorem ldXyNn (xy : IndexReg) (nn : Word) : Statement (.ldXyNn xy nn) :=
  fun _ => ⟨Nat.le_of_ble_eq_true rfl, Nat.le_of_ble_eq_true rfl⟩
theorem ldMemNnXy (xy : IndexReg) (nn : Word) : Statement (.ldMemNnXy xy nn) :=
  fun _ => ⟨Nat.le_of_ble_eq_true rfl, Nat.le_of_ble_eq_true rfl⟩
theorem ldXyMemNn (xy : IndexReg) (nn : Word) : Statement (.ldXyMemNn xy nn) :=
  fun _ => ⟨Nat.le_of_ble_eq_true rfl, Nat.le_of_ble_eq_true rfl⟩
theorem incXy (xy : IndexReg) : Statement (.incXy xy) :=
  fun _ => ⟨Nat.le_of_ble_eq_true rfl, Nat.le_of_ble_eq_true rfl⟩
theorem decXy (xy : IndexReg) : Statement (.decXy xy) :=
  fun _ => ⟨Nat.le_of_ble_eq_true rfl, Nat.le_of_ble_eq_true rfl⟩
theorem incXyHalf (xy : IndexReg) (h : Half) : Statement (.incXyHalf xy h) :=
  fun _ => ⟨Nat.le_of_ble_eq_true rfl, Nat.le_of_ble_eq_true rfl⟩
theorem decXyHalf (xy : IndexReg) (h : Half) : Statement (.decXyHalf xy h) :=
  fun _ => ⟨Nat.le_of_ble_eq_true rfl, Nat.le_of_ble_eq_true rfl⟩
theorem ldXyHalfN (xy : IndexReg) (h : Half) (n : Byte) : Statement (.ldXyHalfN xy h n) :=
  fun _ => ⟨Nat.le_of_ble_eq_true rfl, Nat.le_of_ble_eq_true rfl⟩
theorem incMemXy (xy : IndexReg) (d : Byte) : Statement (.incMemXy xy d) :=
  fun _ => ⟨Nat.le_of_ble_eq_true rfl, Nat.le_of_ble_eq_true rfl⟩
theorem decMemXy (xy : IndexReg) (d : Byte) : Statement (.decMemXy xy d) :=
  fun _ => ⟨Nat.le_of_ble_eq_true rfl, Nat.le_of_ble_eq_true rfl⟩
theorem ldMemXyN (xy : IndexReg) (d : Byte) (n : Byte) : Statement (.ldMemXyN xy d n) :=
  fun _ => ⟨Nat.le_of_ble_eq_true rfl, Nat.le_of_ble_eq_true rfl⟩
theorem ldRMemXy (xy : IndexReg) (r : Reg8) (d : Byte) : Statement (.ldRMemXy xy r d) :=
  fun _ => ⟨Nat.le_of_ble_eq_true rfl, Nat.le_of_ble_eq_true rfl⟩
theorem ldMemXyR (xy : IndexReg) (r : Reg8) (d : Byte) : Statement (.ldMemXyR xy r d) :=
  fun _ => ⟨Nat.le_of_ble_eq_true rfl, Nat.le_of_ble_eq_true rfl⟩
theorem ldXyRR (xy : IndexReg) (dst : Reg8X) (src : Reg8X) : Statement (.ldXyRR xy dst src) :=
  fun _ => ⟨Nat.le_of_ble_eq_true rfl, Nat.le_of_ble_eq_true rfl⟩
theorem addAXyHalf (xy : IndexReg) (h : Half) : Statement (.addAXyHalf xy h) :=
  fun _ => ⟨Nat.le_of_ble_eq_true rfl, Nat.le_of_ble_eq_true rfl⟩
theorem addAMemXy (xy : IndexReg) (d : Byte) : Statement (.addAMemXy xy d) :=
  fun _ => ⟨Nat.le_of_ble_eq_true rfl, Nat.le_of_ble_eq_true rfl⟩
theorem adcAXyHalf (xy : IndexReg) (h : Half) : Statement (.adcAXyHalf xy h) :=
  fun _ => ⟨Nat.le_of_ble_eq_true rfl, Nat.le_of_ble_eq_true rfl⟩
theorem adcAMemXy (xy : IndexReg) (d : Byte) : Statement (.adcAMemXy xy d) :=
  fun _ => ⟨Nat.le_of_ble_eq_true rfl, Nat.le_of_ble_eq_true rfl⟩
theorem subXyHalf (xy : IndexReg) (h : Half) : Statement (.subXyHalf xy h) :=
  fun _ => ⟨Nat.le_of_ble_eq_true rfl, Nat.le_of_ble_eq_true rfl⟩
theorem subMemXy (xy : IndexReg) (d : Byte) : Statement (.subMemXy xy d) :=
  fun _ => ⟨Nat.le_of_ble_eq_true rfl, Nat.le_of_ble_eq_true rfl⟩
theorem sbcAXyHalf (xy : IndexReg) (h : Half) : Statement (.sbcAXyHalf xy h) :=
  fun _ => ⟨Nat.le_of_ble_eq_true rfl, Nat.le_of_ble_eq_true rfl⟩
theorem sbcAMemXy (xy : IndexReg) (d : Byte) : Statement (.sbcAMemXy xy d) :=
  fun _ => ⟨Nat.le_of_ble_eq_true rfl, Nat.le_of_ble_eq_true rfl⟩
theorem andXyHalf (xy : IndexReg) (h : Half) : Statement (.andXyHalf xy h) :=
  fun _ => ⟨Nat.le_of_ble_eq_true rfl, Nat.le_of_ble_eq_true rfl⟩
theorem andMemXy (xy : IndexReg) (d : Byte) : Statement (.andMemXy xy d) :=
  fun _ => ⟨Nat.le_of_ble_eq_true rfl, Nat.le_of_ble_eq_true rfl⟩
theorem xorXyHalf (xy : IndexReg) (h : Half) : Statement (.xorXyHalf xy h) :=
  fun _ => ⟨Nat.le_of_ble_eq_true rfl, Nat.le_of_ble_eq_true rfl⟩
theorem xorMemXy (xy : IndexReg) (d : Byte) : Statement (.xorMemXy xy d) :=
  fun _ => ⟨Nat.le_of_ble_eq_true rfl, Nat.le_of_ble_eq_true rfl⟩
theorem orXyHalf (xy : IndexReg) (h : Half) : Statement (.orXyHalf xy h) :=
  fun _ => ⟨Nat.le_of_ble_eq_true rfl, Nat.le_of_ble_eq_true rfl⟩
theorem orMemXy (xy : IndexReg) (d : Byte) : Statement (.orMemXy xy d) :=
  fun _ => ⟨Nat.le_of_ble_eq_true rfl, Nat.le_of_ble_eq_true rfl⟩
theorem cpXyHalf (xy : IndexReg) (h : Half) : Statement (.cpXyHalf xy h) :=
  fun _ => ⟨Nat.le_of_ble_eq_true rfl, Nat.le_of_ble_eq_true rfl⟩
theorem cpMemXy (xy : IndexReg) (d : Byte) : Statement (.cpMemXy xy d) :=
  fun _ => ⟨Nat.le_of_ble_eq_true rfl, Nat.le_of_ble_eq_true rfl⟩
theorem popXy (xy : IndexReg) : Statement (.popXy xy) :=
  fun _ => ⟨Nat.le_of_ble_eq_true rfl, Nat.le_of_ble_eq_true rfl⟩
theorem exMemSpXy (xy : IndexReg) : Statement (.exMemSpXy xy) :=
  fun _ => ⟨Nat.le_of_ble_eq_true rfl, Nat.le_of_ble_eq_true rfl⟩
theorem pushXy (xy : IndexReg) : Statement (.pushXy xy) :=
  fun _ => ⟨Nat.le_of_ble_eq_true rfl, Nat.le_of_ble_eq_true rfl⟩
theorem jpXy (xy : IndexReg) : Statement (.jpXy xy) :=
  fun _ => ⟨Nat.le_of_ble_eq_true rfl, Nat.le_of_ble_eq_true rfl⟩
theorem ldSpXy (xy : IndexReg) : Statement (.ldSpXy xy) :=
  fun _ => ⟨Nat.le_of_ble_eq_true rfl, Nat.le_of_ble_eq_true rfl⟩
theorem prefixXyCb (xy : IndexReg) : Statement (.prefixXyCb xy) :=
  fun _ => ⟨Nat.le_of_ble_eq_true rfl, Nat.le_of_ble_eq_true rfl⟩
theorem prefixDdReplaces (xy : IndexReg) : Statement (.prefixDdReplaces xy) :=
  fun _ => ⟨Nat.le_of_ble_eq_true rfl, Nat.le_of_ble_eq_true rfl⟩
theorem prefixEdReplaces (xy : IndexReg) : Statement (.prefixEdReplaces xy) :=
  fun _ => ⟨Nat.le_of_ble_eq_true rfl, Nat.le_of_ble_eq_true rfl⟩
theorem prefixFdReplaces (xy : IndexReg) : Statement (.prefixFdReplaces xy) :=
  fun _ => ⟨Nat.le_of_ble_eq_true rfl, Nat.le_of_ble_eq_true rfl⟩
theorem prefixIgnored (xy : IndexReg) (i : Instr) : Statement (.prefixIgnored xy i) :=
  fun h => ⟨Nat.succ_le_succ (Nat.zero_le _), Nat.succ_le_succ (ignoring_le_three (i := i) h)⟩
theorem rlcMemXy (xy : IndexReg) (d : Byte) : Statement (.rlcMemXy xy d) :=
  fun _ => ⟨Nat.le_of_ble_eq_true rfl, Nat.le_of_ble_eq_true rfl⟩
theorem rlcMemXyR (xy : IndexReg) (d : Byte) (r : Reg8) : Statement (.rlcMemXyR xy d r) :=
  fun _ => ⟨Nat.le_of_ble_eq_true rfl, Nat.le_of_ble_eq_true rfl⟩
theorem rrcMemXy (xy : IndexReg) (d : Byte) : Statement (.rrcMemXy xy d) :=
  fun _ => ⟨Nat.le_of_ble_eq_true rfl, Nat.le_of_ble_eq_true rfl⟩
theorem rrcMemXyR (xy : IndexReg) (d : Byte) (r : Reg8) : Statement (.rrcMemXyR xy d r) :=
  fun _ => ⟨Nat.le_of_ble_eq_true rfl, Nat.le_of_ble_eq_true rfl⟩
theorem rlMemXy (xy : IndexReg) (d : Byte) : Statement (.rlMemXy xy d) :=
  fun _ => ⟨Nat.le_of_ble_eq_true rfl, Nat.le_of_ble_eq_true rfl⟩
theorem rlMemXyR (xy : IndexReg) (d : Byte) (r : Reg8) : Statement (.rlMemXyR xy d r) :=
  fun _ => ⟨Nat.le_of_ble_eq_true rfl, Nat.le_of_ble_eq_true rfl⟩
theorem rrMemXy (xy : IndexReg) (d : Byte) : Statement (.rrMemXy xy d) :=
  fun _ => ⟨Nat.le_of_ble_eq_true rfl, Nat.le_of_ble_eq_true rfl⟩
theorem rrMemXyR (xy : IndexReg) (d : Byte) (r : Reg8) : Statement (.rrMemXyR xy d r) :=
  fun _ => ⟨Nat.le_of_ble_eq_true rfl, Nat.le_of_ble_eq_true rfl⟩
theorem slaMemXy (xy : IndexReg) (d : Byte) : Statement (.slaMemXy xy d) :=
  fun _ => ⟨Nat.le_of_ble_eq_true rfl, Nat.le_of_ble_eq_true rfl⟩
theorem slaMemXyR (xy : IndexReg) (d : Byte) (r : Reg8) : Statement (.slaMemXyR xy d r) :=
  fun _ => ⟨Nat.le_of_ble_eq_true rfl, Nat.le_of_ble_eq_true rfl⟩
theorem sraMemXy (xy : IndexReg) (d : Byte) : Statement (.sraMemXy xy d) :=
  fun _ => ⟨Nat.le_of_ble_eq_true rfl, Nat.le_of_ble_eq_true rfl⟩
theorem sraMemXyR (xy : IndexReg) (d : Byte) (r : Reg8) : Statement (.sraMemXyR xy d r) :=
  fun _ => ⟨Nat.le_of_ble_eq_true rfl, Nat.le_of_ble_eq_true rfl⟩
theorem sllMemXy (xy : IndexReg) (d : Byte) : Statement (.sllMemXy xy d) :=
  fun _ => ⟨Nat.le_of_ble_eq_true rfl, Nat.le_of_ble_eq_true rfl⟩
theorem sllMemXyR (xy : IndexReg) (d : Byte) (r : Reg8) : Statement (.sllMemXyR xy d r) :=
  fun _ => ⟨Nat.le_of_ble_eq_true rfl, Nat.le_of_ble_eq_true rfl⟩
theorem srlMemXy (xy : IndexReg) (d : Byte) : Statement (.srlMemXy xy d) :=
  fun _ => ⟨Nat.le_of_ble_eq_true rfl, Nat.le_of_ble_eq_true rfl⟩
theorem srlMemXyR (xy : IndexReg) (d : Byte) (r : Reg8) : Statement (.srlMemXyR xy d r) :=
  fun _ => ⟨Nat.le_of_ble_eq_true rfl, Nat.le_of_ble_eq_true rfl⟩
theorem bitMemXy (xy : IndexReg) (d : Byte) (b : BitVec 3) : Statement (.bitMemXy xy d b) :=
  fun _ => ⟨Nat.le_of_ble_eq_true rfl, Nat.le_of_ble_eq_true rfl⟩
theorem bitMemXyDup (xy : IndexReg) (d : Byte) (b : BitVec 3) (r : Reg8) : Statement (.bitMemXyDup xy d b r) :=
  fun _ => ⟨Nat.le_of_ble_eq_true rfl, Nat.le_of_ble_eq_true rfl⟩
theorem resMemXy (xy : IndexReg) (d : Byte) (b : BitVec 3) : Statement (.resMemXy xy d b) :=
  fun _ => ⟨Nat.le_of_ble_eq_true rfl, Nat.le_of_ble_eq_true rfl⟩
theorem resMemXyR (xy : IndexReg) (d : Byte) (b : BitVec 3) (r : Reg8) : Statement (.resMemXyR xy d b r) :=
  fun _ => ⟨Nat.le_of_ble_eq_true rfl, Nat.le_of_ble_eq_true rfl⟩
theorem setMemXy (xy : IndexReg) (d : Byte) (b : BitVec 3) : Statement (.setMemXy xy d b) :=
  fun _ => ⟨Nat.le_of_ble_eq_true rfl, Nat.le_of_ble_eq_true rfl⟩
theorem setMemXyR (xy : IndexReg) (d : Byte) (b : BitVec 3) (r : Reg8) : Statement (.setMemXyR xy d b r) :=
  fun _ => ⟨Nat.le_of_ble_eq_true rfl, Nat.le_of_ble_eq_true rfl⟩

end Sys2Proof.Laws.Length
end

