-- ==== Sys2Proof/Laws/Step.lean ====
section
/-! SUPPORT. What one instruction and one CPU step can do to the whole machine, said once: `Effect`. Invariants and rules
of the whole machine follow from it without unfolding a meaning. -/

namespace Sys2Proof.Machine

/-- What a step of the CPU can do: it adds at least 4 tacts (R611), keeps memory's canonical form and ROM, leaves the open
parameters alone, changes the ULA by a port write only and the tape by a query of its level only. -/
structure Effect (s t : State) : Prop where
  env : t.env = s.env
  tacts : s.cpu.tacts + 4 ≤ t.cpu.tacts
  wf : s.mem.wf = true → t.mem.wf = true
  rom : ∀ k, k < ramStart → t.mem.read k = s.mem.read k
  ula : t.ula = s.ula ∨ ∃ m x, s.ula.timeOk t.cpu.tacts = true ∧ t.ula = s.ula.writePort m t.cpu.tacts x
  tape : t.tape = s.tape ∨ ∃ b, s.tape.playing = true ∧ s.tape.getEarBit t.cpu.tacts = .next (b, t.tape)

/-- Two successors of one state that differ at most in what `Effect` does not speak of have the same effect. -/
theorem Effect.congr {s t u : State} (h : Effect s t) (he : u.env = t.env) (hc : u.cpu.tacts = t.cpu.tacts)
    (hm : u.mem = t.mem) (hu : u.ula = t.ula) (ht : u.tape = t.tape) : Effect s u :=
  ⟨he ▸ h.env, hc ▸ h.tacts, hm ▸ h.wf, hm ▸ h.rom, hc ▸ hu ▸ h.ula, hc ▸ ht ▸ h.tape⟩

theorem Effect.ite {s t u : State} {c : Prop} [Decidable c] (ht : Effect s t) (hu : Effect s u) :
    Effect s (if c then t else u) := by
  split <;> assumption

/-- A meaning that always answers a next state has the effect that state has. -/
theorem Effect.of_next {s t u : State} (hu : Effect s u) (h : Host.Outcome.next u = (.next t : Result)) : Effect s t := by
  cases h
  exact hu

/-- The effect of a change of CPU registers that adds tacts. -/
theorem Effect.of_cpu {s t : State} (hm : t.mem = s.mem) (hu : t.ula = s.ula) (ht : t.tape = s.tape)
    (he : t.env = s.env) (hc : s.cpu.tacts + 4 ≤ t.cpu.tacts) : Effect s t :=
  ⟨he, hc, by rw [hm]; exact id, fun k _ => by rw [hm], .inl hu, .inl ht⟩

/-- The effect of a change of CPU registers and memory that adds tacts. -/
theorem Effect.of_mem {s t : State} (hw : s.mem.wf = true → t.mem.wf = true)
    (hr : ∀ k, k < ramStart → t.mem.read k = s.mem.read k) (hu : t.ula = s.ula) (ht : t.tape = s.tape)
    (he : t.env = s.env) (hc : s.cpu.tacts + 4 ≤ t.cpu.tacts) : Effect s t :=
  ⟨he, hc, hw, hr, .inl hu, .inl ht⟩

/-! ### The operand forms -/

theorem aluOnReg_effect (op : AluOp) (r : Reg8) (s : State) : Effect s (aluOnReg op r s) := by
  refine Effect.of_cpu (by simp [aluOnReg, State.alu]) (by simp [aluOnReg, State.alu]) (by simp [aluOnReg, State.alu])
    (by simp [aluOnReg, State.alu]) (by simp [aluOnReg, State.alu])

theorem aluOnImmediate_effect (op : AluOp) (n : Byte) (s : State) : Effect s (aluOnImmediate op n s) := by
  refine Effect.of_cpu (by simp [aluOnImmediate, State.alu]) (by simp [aluOnImmediate, State.alu]) (by simp [aluOnImmediate, State.alu])
    (by simp [aluOnImmediate, State.alu]) (by simp [aluOnImmediate, State.alu])

theorem aluOnMemHl_effect (op : AluOp) (s : State) : Effect s (aluOnMemHl op s) := by
  refine Effect.of_cpu (by simp [aluOnMemHl, State.alu]) (by simp [aluOnMemHl, State.alu]) (by simp [aluOnMemHl, State.alu])
    (by simp [aluOnMemHl, State.alu]) (by simp [aluOnMemHl, State.alu]; omega)

theorem aluOnMemXy_effect (op : AluOp) (x : IndexReg) (d : Byte) (s : State) : Effect s (aluOnMemXy op x d s) := by
  refine Effect.of_cpu (by simp [aluOnMemXy, State.alu]) (by simp [aluOnMemXy, State.alu]) (by simp [aluOnMemXy, State.alu])
    (by simp [aluOnMemXy, State.alu]) (by simp [aluOnMemXy, State.alu]; omega)

theorem aluOnXyHalf_effect (op : AluOp) (x : IndexReg) (h : Half) (s : State) : Effect s (aluOnXyHalf op x h s) := by
  refine Effect.of_cpu (by simp [aluOnXyHalf, State.alu]) (by simp [aluOnXyHalf, State.alu]) (by simp [aluOnXyHalf, State.alu])
    (by simp [aluOnXyHalf, State.alu]) (by simp [aluOnXyHalf, State.alu])

theorem modifyReg_effect (op : ByteOp) (r : Reg8) (s : State) {n : Nat} (_hn : 4 ≤ n) : Effect s (modifyReg op r n s) := by
  refine Effect.of_cpu (by simp [modifyReg]) (by simp [modifyReg]) (by simp [modifyReg])
    (by simp [modifyReg]) (by simp [modifyReg]; omega)

theorem modifyXyHalf_effect (op : ByteOp) (x : IndexReg) (h : Half) (s : State) {n : Nat} (_hn : 4 ≤ n) : Effect s (modifyXyHalf op x h n s) := by
  refine Effect.of_cpu (by simp [modifyXyHalf]) (by simp [modifyXyHalf]) (by simp [modifyXyHalf])
    (by simp [modifyXyHalf]) (by simp [modifyXyHalf]; omega)

theorem modifyMem_effect (op : ByteOp) (ea : Word) (s : State) {n : Nat} (_hn : 4 ≤ n) : Effect s (modifyMem op ea n s) := by
  apply Effect.of_mem
  · intro h
    simp [modifyMem, h]
  · intro k hk
    simp [modifyMem, hk]
  · simp [modifyMem]
  · simp [modifyMem]
  · simp [modifyMem]
  · simp [modifyMem]
    omega

theorem modifyMemXy_effect (op : ByteOp) (x : IndexReg) (d : Byte) (s : State) {n : Nat} (_hn : 4 ≤ n) : Effect s (modifyMemXy op x d n s) := by
  apply Effect.of_mem
  · intro h
    simp [modifyMemXy, modifyMem, h]
  · intro k hk
    simp [modifyMemXy, modifyMem, hk]
  · simp [modifyMemXy, modifyMem]
  · simp [modifyMemXy, modifyMem]
  · simp [modifyMemXy, modifyMem]
  · simp [modifyMemXy, modifyMem]
    omega

theorem modifyMemXyCopy_effect (op : ByteOp) (x : IndexReg) (d : Byte) (r : Reg8) (s : State) {n : Nat} (hn : 4 ≤ n) :
    Effect s (modifyMemXyCopy op x d r n s) :=
  (modifyMemXy_effect op x d s hn).congr (by simp [modifyMemXyCopy]) (by simp [modifyMemXyCopy])
    (by simp [modifyMemXyCopy]) (by simp [modifyMemXyCopy]) (by simp [modifyMemXyCopy])

theorem rotateA_effect (op : RotOp) (s : State) : Effect s (rotateA op s) := by
  refine Effect.of_cpu (by simp [rotateA]) (by simp [rotateA]) (by simp [rotateA])
    (by simp [rotateA]) (by simp [rotateA])

theorem loadAFrom_effect (a : Word) (s : State) {n : Nat} (_hn : 4 ≤ n) : Effect s (loadAFrom a n s) := by
  refine Effect.of_cpu (by simp [loadAFrom]) (by simp [loadAFrom]) (by simp [loadAFrom])
    (by simp [loadAFrom]) (by simp [loadAFrom]; omega)

theorem storeATo_effect (a : Word) (s : State) {n : Nat} (_hn : 4 ≤ n) : Effect s (storeATo a n s) := by
  apply Effect.of_mem
  · intro h
    simp [storeATo, h]
  · intro k hk
    simp [storeATo, hk]
  · simp [storeATo]
  · simp [storeATo]
  · simp [storeATo]
  · simp [storeATo]
    omega

theorem storeWord_effect (nn v : Word) (s : State) {n : Nat} (_hn : 4 ≤ n) : Effect s (storeWord nn v n s) := by
  apply Effect.of_mem
  · intro h
    simp [storeWord, h]
  · intro k hk
    simp [storeWord, hk]
  · simp [storeWord]
  · simp [storeWord]
  · simp [storeWord]
  · simp [storeWord]
    omega

theorem exchangeStack_effect (v : Word) (s : State) : Effect s (exchangeStack v s) := by
  apply Effect.of_mem
  · intro h
    simp [exchangeStack, h]
  · intro k hk
    simp [exchangeStack, hk]
  · simp [exchangeStack]
  · simp [exchangeStack]
  · simp [exchangeStack]
  · simp [exchangeStack]
    omega

theorem digitRotate_effect (x y : Byte) (s : State) : Effect s (digitRotate x y s) := by
  apply Effect.of_mem
  · intro h
    simp [digitRotate, h]
  · intro k hk
    simp [digitRotate, hk]
  · simp [digitRotate]
  · simp [digitRotate]
  · simp [digitRotate]
  · simp [digitRotate]
    omega

theorem bitIndexed_effect (ea : Word) (b : BitVec 3) (s : State) : Effect s (bitIndexed ea b s) := by
  refine Effect.of_cpu (by simp [bitIndexed]) (by simp [bitIndexed]) (by simp [bitIndexed])
    (by simp [bitIndexed]) (by simp [bitIndexed]; omega)

theorem prefixStep_effect (p : Pfx) (s : State) : Effect s (prefixStep p s) := by
  refine Effect.of_cpu (by simp [prefixStep]) (by simp [prefixStep]) (by simp [prefixStep])
    (by simp [prefixStep]) (by simp [prefixStep])

/-- A push, other register updates and tacts. -/
theorem push_charge_effect {s t : State} (v : Word) {n : Nat} (l : List Access) (hn : 4 ≤ n)
    (hm : t.mem = s.mem) (hu : t.ula = s.ula) (ht : t.tape = s.tape) (he : t.env = s.env)
    (hc : t.cpu.tacts = s.cpu.tacts) : Effect s ((t.push v).charge n l) := by
  apply Effect.of_mem
  · intro h
    have : t.mem.wf = true := hm ▸ h
    simp [this]
  · intro k hk
    simp [hk, hm]
  · simp [hu]
  · simp [ht]
  · simp [he]
  · simp [hc]
    omega

theorem ldBlock_effect (dir : Dir) (n : Nat) (l : List Access) (s : State) (_hn : 4 ≤ n) :
    Effect s ((ldBlock dir s).charge n l) := by
  apply Effect.of_mem
  · intro h
    simp [ldBlock, h]
  · intro k hk
    simp [ldBlock, hk]
  · simp [ldBlock]
  · simp [ldBlock]
  · simp [ldBlock]
  · simp [ldBlock]
    omega

theorem ldBlockRepeat_effect (dir : Dir) (s : State) : Effect s (ldBlockRepeat dir s) :=
  Effect.ite
    ((ldBlock_effect dir 17 [readAt s.hl, writeAt s.de] s (by omega)).congr rfl
      (by simp [State.repeatBlock, State.repeatPc]) rfl rfl rfl)
    (ldBlock_effect dir 12 _ s (by omega))

theorem cpBlock_effect (dir : Dir) (n : Nat) (l : List Access) (s : State) (_hn : 4 ≤ n) :
    Effect s ((cpBlock dir s).charge n l) := by
  refine Effect.of_cpu (by simp [cpBlock]) (by simp [cpBlock]) (by simp [cpBlock])
    (by simp [cpBlock]) (by simp [cpBlock]; omega)

theorem cpBlockRepeat_effect (dir : Dir) (s : State) : Effect s (cpBlockRepeat dir s) :=
  Effect.ite
    ((cpBlock_effect dir 17 [readAt s.hl] s (by omega)).congr rfl (by simp [State.repeatBlock, State.repeatPc]) rfl
      rfl rfl)
    (cpBlock_effect dir 12 _ s (by omega))

/-! ### The ports -/

/-- A port read changes the tape at most, by one query of its level at the tact the counter holds (48_ula.md R459). -/
theorem portRead_cases {p : Word} {s : State} {x : Byte × State} (h : portRead p s = .next x) :
    x.2.cpu = s.cpu ∧ x.2.mem = s.mem ∧ x.2.ula = s.ula ∧ x.2.env = s.env ∧
      (x.2.tape = s.tape ∨ ∃ b, s.tape.playing = true ∧ s.tape.getEarBit s.cpu.tacts = .next (b, x.2.tape)) := by
  unfold portRead at h
  split at h
  · split at h
    · rw [andThen_next] at h
      obtain ⟨y, hy, hx⟩ := h
      cases hx
      unfold State.earInput at hy
      split at hy
      · rename_i hp
        rw [andThen_next] at hy
        obtain ⟨z, hz, hy⟩ := hy
        cases hy
        simp only [Bool.and_eq_true] at hp
        exact ⟨rfl, rfl, rfl, rfl, .inr ⟨z.1, hp.2, hz⟩⟩
      · cases hy
        exact ⟨rfl, rfl, rfl, rfl, .inl rfl⟩
    · cases h
  · cases h
    exact ⟨rfl, rfl, rfl, rfl, .inl rfl⟩

/-- A port write changes the ULA at most, by the write of R454 and R457 at the tact the counter holds. -/
theorem portWrite_cases {p : Word} {v : Byte} {s t : State} (h : portWrite p v s = .next t) :
    t.cpu = s.cpu ∧ t.mem = s.mem ∧ t.tape = s.tape ∧ t.env = s.env ∧
      (t.ula = s.ula ∨ s.ula.timeOk s.cpu.tacts = true ∧ t.ula = s.ula.writePort s.mem s.cpu.tacts v) := by
  unfold portWrite at h
  split at h
  · split at h
    · rename_i hok
      cases h
      exact ⟨rfl, rfl, rfl, rfl, .inr ⟨hok, rfl⟩⟩
    · cases h
  · cases h
    exact ⟨rfl, rfl, rfl, rfl, .inl rfl⟩

/-- The effect of a port read followed by changes of registers and memory. -/
theorem portRead_effect {p : Word} {n : Nat} {l : List Access} {s t : State} {x : Byte × State} (hn : 4 ≤ n)
    (h : portRead p (s.charge n l) = .next x) (hw : x.2.mem.wf = true → t.mem.wf = true)
    (hr : ∀ k, k < ramStart → t.mem.read k = x.2.mem.read k) (hc : t.cpu.tacts = x.2.cpu.tacts) (hu : t.ula = x.2.ula)
    (ht : t.tape = x.2.tape) (he : t.env = x.2.env) : Effect s t := by
  obtain ⟨h1, h2, h3, h4, h5⟩ := portRead_cases h
  have h6 : t.cpu.tacts = (s.charge n l).cpu.tacts := by rw [hc, h1]
  refine ⟨by rw [he, h4]; rfl, by rw [h6, State.charge_cpu]; show _ ≤ s.cpu.tacts + n + _; omega,
    fun hs => hw (by rw [h2]; exact hs), fun k hk => by rw [hr k hk, h2]; rfl, .inl (by rw [hu, h3]; rfl), ?_⟩
  rw [ht, h6]
  exact h5

/-- The effect of a port write followed by changes of registers. -/
theorem portWrite_effect {p : Word} {v : Byte} {n : Nat} {l : List Access} {s s1 t u : State} (hn : 4 ≤ n)
    (hs : s1.cpu.tacts = s.cpu.tacts ∧ s1.mem = s.mem ∧ s1.ula = s.ula ∧ s1.tape = s.tape ∧ s1.env = s.env)
    (h : portWrite p v (s1.charge n l) = .next u) (hm : t.mem = u.mem) (hc : t.cpu.tacts = u.cpu.tacts)
    (hu : t.ula = u.ula) (ht : t.tape = u.tape) (he : t.env = u.env) : Effect s t := by
  obtain ⟨h1, h2, h3, h4, h5⟩ := portWrite_cases h
  obtain ⟨g1, g2, g3, g4, g5⟩ := hs
  have h6 : t.cpu.tacts = (s1.charge n l).cpu.tacts := by rw [hc, h1]
  have h7 : t.mem = s.mem := by rw [hm, h2]; exact g2
  refine ⟨by rw [he, h4]; exact g5, by rw [h6, State.charge_cpu]; show _ ≤ s1.cpu.tacts + n + _; omega,
    by rw [h7]; exact id, fun k _ => by rw [h7], ?_, .inl (by rw [ht, h3]; exact g4)⟩
  rw [hu, h6, ← g3]
  rcases h5 with h5 | ⟨h5, h8⟩
  · exact .inl h5
  · exact .inr ⟨_, _, h5, h8⟩

theorem inBlock_effect {dir : Dir} {n : Nat} {s t : State} (hn : 4 ≤ n) (h : inBlock dir n s = .next t) : Effect s t := by
  unfold inBlock at h
  rw [andThen_next] at h
  obtain ⟨x, hx, h⟩ := h
  cases h
  refine portRead_effect hn hx ?_ ?_ ?_ ?_ ?_ ?_
  · intro hw
    simp [inBlockStore, hw]
  · intro k hk
    simp [inBlockStore, hk]
  all_goals simp [inBlockStore]

theorem inBlockRepeat_effect {dir : Dir} {s t : State} (h : inBlockRepeat dir s = .next t) : Effect s t := by
  unfold inBlockRepeat at h
  split at h
  · rw [andThen_next] at h
    obtain ⟨u, hu, h⟩ := h
    cases h
    exact (inBlock_effect (by omega) hu).congr rfl rfl rfl rfl rfl
  · exact inBlock_effect (by omega) h

theorem outBlock_effect {dir : Dir} {n : Nat} {s t : State} (hn : 4 ≤ n) (h : outBlock dir n s = .next t) :
    Effect s t := by
  unfold outBlock at h
  rw [andThen_next] at h
  obtain ⟨u, hu, h⟩ := h
  cases h
  exact portWrite_effect (s1 := s.setReg .b (s.cpu.b - 1)) (u := u) hn ⟨by simp, rfl, rfl, rfl, rfl⟩ hu rfl rfl rfl rfl rfl

theorem outBlockRepeat_effect {dir : Dir} {s t : State} (h : outBlockRepeat dir s = .next t) : Effect s t := by
  unfold outBlockRepeat at h
  split at h
  · rw [andThen_next] at h
    obtain ⟨u, hu, h⟩ := h
    cases h
    exact (outBlock_effect (by omega) hu).congr rfl rfl rfl rfl rfl
  · exact outBlock_effect (by omega) h

/-! ### Every meaning -/

/-- A conditional jump, call or return has the effect of the way it goes. -/
theorem condJump_effect {s u v t : State} {c : Prop} [Decidable c] (hu : Effect s u) (hv : Effect s v)
    (h : Host.Outcome.next (if c then u else v) = (.next t : Result)) : Effect s t := .of_next (.ite hu hv) h

theorem execInAN_effect {n : Byte} {s t : State} (h : execInAN n s = .next t) : Effect s t := by
  unfold execInAN at h
  rw [andThen_next] at h
  obtain ⟨x, hx, h⟩ := h
  cases h
  exact portRead_effect (by omega) hx id (fun _ _ => rfl) rfl rfl rfl rfl

theorem execInRC_effect {r : Reg8} {s t : State} (h : execInRC r s = .next t) : Effect s t := by
  unfold execInRC at h
  rw [andThen_next] at h
  obtain ⟨x, hx, h⟩ := h
  cases h
  exact portRead_effect (by omega) hx id (fun _ _ => rfl) (by simp) rfl rfl rfl

theorem execInC_effect {s t : State} (h : execInC s = .next t) : Effect s t := by
  unfold execInC at h
  rw [andThen_next] at h
  obtain ⟨x, hx, h⟩ := h
  cases h
  exact portRead_effect (by omega) hx id (fun _ _ => rfl) rfl rfl rfl rfl

theorem execOutNA_effect {n : Byte} {s t : State} (h : execOutNA n s = .next t) : Effect s t := by
  unfold execOutNA at h
  rw [andThen_next] at h
  obtain ⟨u, hu, h⟩ := h
  cases h
  exact portWrite_effect (s1 := s) (u := u) (by omega) ⟨rfl, rfl, rfl, rfl, rfl⟩ hu rfl rfl rfl rfl rfl

theorem execOutCR_effect {r : Reg8} {s t : State} (h : execOutCR r s = .next t) : Effect s t := by
  unfold execOutCR at h
  rw [andThen_next] at h
  obtain ⟨u, hu, h⟩ := h
  cases h
  exact portWrite_effect (s1 := s) (u := u) (by omega) ⟨rfl, rfl, rfl, rfl, rfl⟩ hu rfl rfl rfl rfl rfl

theorem execOutC0_effect {s t : State} (h : execOutC0 s = .next t) : Effect s t := by
  unfold execOutC0 at h
  rw [andThen_next] at h
  obtain ⟨u, hu, h⟩ := h
  cases h
  exact portWrite_effect (s1 := s) (u := u) (by omega) ⟨rfl, rfl, rfl, rfl, rfl⟩ hu rfl rfl rfl rfl rfl

theorem execDjnz_effect {d : Byte} {s t : State} (h : execDjnz d s = .next t) : Effect s t :=
  condJump_effect
    (.of_cpu (by simp [State.jumpTo]) (by simp [State.jumpTo]) (by simp [State.jumpTo]) (by simp [State.jumpTo])
      (by simp [State.jumpTo]))
    (.of_cpu (by simp) (by simp) (by simp) (by simp) (by simp)) h

theorem execJpCcNn_effect {cond : Cond} {nn : Word} {s t : State} (h : execJpCcNn cond nn s = .next t) : Effect s t := by
  cases h
  by_cases hc : condHolds s.cpu.f cond = true
  · rw [if_pos hc]
    exact .of_cpu rfl rfl rfl rfl (by simp [State.jumpTo])
  · rw [if_neg hc]
    exact .of_cpu rfl rfl rfl rfl (by simp)

theorem call_effect {s : State} (nn : Word) (n : Nat) (l : List Access) (hn : 4 ≤ n) :
    Effect s ((s.call nn).charge n l) :=
  (push_charge_effect (s := s) (t := s.setMemptr nn) s.cpu.pc (n := n) l hn rfl rfl rfl rfl rfl).congr
    (by simp [State.call]) (by simp [State.call]) (by simp [State.call]) (by simp [State.call]) (by simp [State.call])

theorem returnFromInterrupt_effect {s t : State} (h : execReti s = .next t) : Effect s t := by
  cases h
  have hm : s.returnFromInterrupt.mem = s.mem := by simp [State.returnFromInterrupt, State.returnToCaller]
  have hu : s.returnFromInterrupt.ula = s.ula := by simp [State.returnFromInterrupt, State.returnToCaller]
  have ht : s.returnFromInterrupt.tape = s.tape := by simp [State.returnFromInterrupt, State.returnToCaller]
  have he : s.returnFromInterrupt.env = s.env := by simp [State.returnFromInterrupt, State.returnToCaller]
  have hc : s.returnFromInterrupt.cpu.tacts = s.cpu.tacts := by
    simp [State.returnFromInterrupt, State.returnToCaller]
  exact .of_cpu (by simp [hm]) (by simp [hu]) (by simp [ht]) (by simp [he]) (by simp [hc]; omega)

theorem returnToCaller_effect {s : State} (n : Nat) (l : List Access) (hn : 4 ≤ n) :
    Effect s (s.returnToCaller.charge n l) :=
  .of_cpu (by simp [State.returnToCaller]) (by simp [State.returnToCaller]) (by simp [State.returnToCaller])
    (by simp [State.returnToCaller]) (by simp [State.returnToCaller]; omega)

theorem execUnprefixed_effect {i : Instr} {s t : State} (hx : execUnprefixed i s = .next t) : Effect s t := by
  cases i with
  | nop => exact .of_next (.of_cpu (by simp) (by simp) (by simp) (by simp) (by simp)) hx
  | ldRpNn rp nn => exact .of_next (.of_cpu (by simp) (by simp) (by simp) (by simp) (by simp)) hx
  | ldMemBcA => exact .of_next (storeATo_effect _ s (by omega)) hx
  | ldMemDeA => exact .of_next (storeATo_effect _ s (by omega)) hx
  | ldMemNnA nn => exact .of_next (storeATo_effect _ s (by omega)) hx
  | incRp rp => exact .of_next (.of_cpu (by simp) (by simp) (by simp) (by simp) (by simp)) hx
  | decRp rp => exact .of_next (.of_cpu (by simp) (by simp) (by simp) (by simp) (by simp)) hx
  | incR r => exact .of_next (modifyReg_effect inc8 r s (by omega)) hx
  | decR r => exact .of_next (modifyReg_effect dec8 r s (by omega)) hx
  | ldRN r n => exact .of_next (.of_cpu (by simp) (by simp) (by simp) (by simp) (by simp)) hx
  | rlca => exact .of_next (rotateA_effect .rlc s) hx
  | rrca => exact .of_next (rotateA_effect .rrc s) hx
  | rla => exact .of_next (rotateA_effect .rl s) hx
  | rra => exact .of_next (rotateA_effect .rr s) hx
  | daa => exact .of_next (.of_cpu (by simp) (by simp) (by simp) (by simp) (by simp)) hx
  | cpl => exact .of_next (.of_cpu (by simp) (by simp) (by simp) (by simp) (by simp)) hx
  | scf => exact .of_next (.of_cpu (by simp) (by simp) (by simp) (by simp) (by simp)) hx
  | ccf => exact .of_next (.of_cpu (by simp) (by simp) (by simp) (by simp) (by simp)) hx
  | exAfAf => exact .of_next (.of_cpu (by simp) (by simp) (by simp) (by simp) (by simp)) hx
  | ldAMemBc => exact .of_next (loadAFrom_effect _ s (by omega)) hx
  | ldAMemDe => exact .of_next (loadAFrom_effect _ s (by omega)) hx
  | ldAMemNn nn => exact .of_next (loadAFrom_effect _ s (by omega)) hx
  | djnz e => exact execDjnz_effect hx
  | jr e =>
    exact .of_next (.of_cpu (by simp [State.jumpTo]) (by simp [State.jumpTo]) (by simp [State.jumpTo]) (by simp
      [State.jumpTo]) (by simp [State.jumpTo])) hx
  | jrCc cond e =>
    exact condJump_effect (.of_cpu (by simp [State.jumpTo]) (by simp [State.jumpTo]) (by simp [State.jumpTo]) (by
      simp [State.jumpTo]) (by simp [State.jumpTo])) (.of_cpu (by simp) (by simp) (by simp) (by simp) (by simp)) hx
  | ldRR dst src => exact .of_next (.of_cpu (by simp) (by simp) (by simp) (by simp) (by simp)) hx
  | halt => exact .of_next (.of_cpu (by simp) (by simp) (by simp) (by simp) (by simp)) hx
  | addAR r => exact .of_next (aluOnReg_effect .add r s) hx
  | addAN n => exact .of_next (aluOnImmediate_effect .add n s) hx
  | adcAR r => exact .of_next (aluOnReg_effect .adc r s) hx
  | adcAN n => exact .of_next (aluOnImmediate_effect .adc n s) hx
  | subR r => exact .of_next (aluOnReg_effect .sub r s) hx
  | subN n => exact .of_next (aluOnImmediate_effect .sub n s) hx
  | sbcAR r => exact .of_next (aluOnReg_effect .sbc r s) hx
  | sbcAN n => exact .of_next (aluOnImmediate_effect .sbc n s) hx
  | andR r => exact .of_next (aluOnReg_effect .and r s) hx
  | andN n => exact .of_next (aluOnImmediate_effect .and n s) hx
  | xorR r => exact .of_next (aluOnReg_effect .xor r s) hx
  | xorN n => exact .of_next (aluOnImmediate_effect .xor n s) hx
  | orR r => exact .of_next (aluOnReg_effect .or r s) hx
  | orN n => exact .of_next (aluOnImmediate_effect .or n s) hx
  | cpR r => exact .of_next (aluOnReg_effect .cp r s) hx
  | cpN n => exact .of_next (aluOnImmediate_effect .cp n s) hx
  | retCc cond =>
    exact condJump_effect (returnToCaller_effect 11 _ (by omega)) (.of_cpu (by simp) (by simp) (by simp) (by simp)
      (by simp)) hx
  | popQq q => exact .of_next (.of_cpu (by simp) (by simp) (by simp) (by simp) (by simp; omega)) hx
  | ret => exact .of_next (returnToCaller_effect 10 _ (by omega)) hx
  | exx => exact .of_next (.of_cpu (by simp) (by simp) (by simp) (by simp) (by simp)) hx
  | jpCcNn cond nn => exact execJpCcNn_effect hx
  | jpNn nn =>
    exact .of_next (.of_cpu (by simp [State.jumpTo]) (by simp [State.jumpTo]) (by simp [State.jumpTo]) (by simp
      [State.jumpTo]) (by simp [State.jumpTo])) hx
  | outNA n => exact execOutNA_effect hx
  | inAN n => exact execInAN_effect hx
  | exDeHl => exact .of_next (.of_cpu (by simp) (by simp) (by simp) (by simp) (by simp)) hx
  | di => exact .of_next (.of_cpu (by simp) (by simp) (by simp) (by simp) (by simp)) hx
  | ei => exact .of_next (.of_cpu (by simp) (by simp) (by simp) (by simp) (by simp)) hx
  | callCcNn cond nn =>
    exact condJump_effect (call_effect nn 17 _ (by omega)) (.of_cpu (by simp) (by simp) (by simp) (by simp) (by simp)) hx
  | pushQq q => exact .of_next (push_charge_effect _ _ (by omega) rfl rfl rfl rfl rfl) hx
  | callNn nn => exact .of_next (call_effect nn 17 _ (by omega)) hx
  | rst t => exact .of_next (call_effect _ 11 _ (by omega)) hx
  | _ => cases hx

/-- What executing an instruction can do. -/
theorem exec_effect {i : Instr} {s t : State} (hx : exec i s = .next t) : Effect s t := by
  cases i with
  | nop => exact .of_next (.of_cpu (by simp) (by simp) (by simp) (by simp) (by simp)) hx
  | ldRpNn rp nn => exact .of_next (.of_cpu (by simp) (by simp) (by simp) (by simp) (by simp)) hx
  | ldMemBcA => exact .of_next (storeATo_effect _ s (by omega)) hx
  | ldMemDeA => exact .of_next (storeATo_effect _ s (by omega)) hx
  | ldMemNnHl nn => exact .of_next (storeWord_effect _ _ s (by omega)) hx
  | ldMemNnA nn => exact .of_next (storeATo_effect _ s (by omega)) hx
  | incRp rp => exact .of_next (.of_cpu (by simp) (by simp) (by simp) (by simp) (by simp)) hx
  | decRp rp => exact .of_next (.of_cpu (by simp) (by simp) (by simp) (by simp) (by simp)) hx
  | incR r => exact .of_next (modifyReg_effect inc8 r s (by omega)) hx
  | incMemHl => exact .of_next (modifyMem_effect inc8 s.hl s (by omega)) hx
  | decR r => exact .of_next (modifyReg_effect dec8 r s (by omega)) hx
  | decMemHl => exact .of_next (modifyMem_effect dec8 s.hl s (by omega)) hx
  | ldRN r n => exact .of_next (.of_cpu (by simp) (by simp) (by simp) (by simp) (by simp)) hx
  | ldMemHlN n =>
    exact .of_next (.of_mem (fun hw => by simp [hw]) (fun k hk => by simp [hk]) (by simp) (by simp) (by simp) (by
      simp; omega)) hx
  | rlca => exact .of_next (rotateA_effect .rlc s) hx
  | rrca => exact .of_next (rotateA_effect .rrc s) hx
  | rla => exact .of_next (rotateA_effect .rl s) hx
  | rra => exact .of_next (rotateA_effect .rr s) hx
  | daa => exact .of_next (.of_cpu (by simp) (by simp) (by simp) (by simp) (by simp)) hx
  | cpl => exact .of_next (.of_cpu (by simp) (by simp) (by simp) (by simp) (by simp)) hx
  | scf => exact .of_next (.of_cpu (by simp) (by simp) (by simp) (by simp) (by simp)) hx
  | ccf => exact .of_next (.of_cpu (by simp) (by simp) (by simp) (by simp) (by simp)) hx
  | exAfAf => exact .of_next (.of_cpu (by simp) (by simp) (by simp) (by simp) (by simp)) hx
  | addHlRp rp => exact .of_next (.of_cpu (by simp) (by simp) (by simp) (by simp) (by simp)) hx
  | ldAMemBc => exact .of_next (loadAFrom_effect _ s (by omega)) hx
  | ldAMemDe => exact .of_next (loadAFrom_effect _ s (by omega)) hx
  | ldHlMemNn nn =>
    exact .of_next (.of_cpu (by simp [loadedWord]) (by simp [loadedWord]) (by simp [loadedWord]) (by simp
      [loadedWord]) (by simp [loadedWord]; omega)) hx
  | ldAMemNn nn => exact .of_next (loadAFrom_effect _ s (by omega)) hx
  | djnz e => exact execDjnz_effect hx
  | jr e =>
    exact .of_next (.of_cpu (by simp [State.jumpTo]) (by simp [State.jumpTo]) (by simp [State.jumpTo]) (by simp
      [State.jumpTo]) (by simp [State.jumpTo])) hx
  | jrCc cond e =>
    exact condJump_effect (.of_cpu (by simp [State.jumpTo]) (by simp [State.jumpTo]) (by simp [State.jumpTo]) (by
      simp [State.jumpTo]) (by simp [State.jumpTo])) (.of_cpu (by simp) (by simp) (by simp) (by simp) (by simp)) hx
  | ldRR dst src => exact .of_next (.of_cpu (by simp) (by simp) (by simp) (by simp) (by simp)) hx
  | ldRMemHl r => exact .of_next (.of_cpu (by simp) (by simp) (by simp) (by simp) (by simp; omega)) hx
  | ldMemHlR r =>
    exact .of_next (.of_mem (fun hw => by simp [hw]) (fun k hk => by simp [hk]) (by simp) (by simp) (by simp) (by
      simp; omega)) hx
  | halt => exact .of_next (.of_cpu (by simp) (by simp) (by simp) (by simp) (by simp)) hx
  | addAR r => exact .of_next (aluOnReg_effect .add r s) hx
  | addAMemHl => exact .of_next (aluOnMemHl_effect .add s) hx
  | addAN n => exact .of_next (aluOnImmediate_effect .add n s) hx
  | adcAR r => exact .of_next (aluOnReg_effect .adc r s) hx
  | adcAMemHl => exact .of_next (aluOnMemHl_effect .adc s) hx
  | adcAN n => exact .of_next (aluOnImmediate_effect .adc n s) hx
  | subR r => exact .of_next (aluOnReg_effect .sub r s) hx
  | subMemHl => exact .of_next (aluOnMemHl_effect .sub s) hx
  | subN n => exact .of_next (aluOnImmediate_effect .sub n s) hx
  | sbcAR r => exact .of_next (aluOnReg_effect .sbc r s) hx
  | sbcAMemHl => exact .of_next (aluOnMemHl_effect .sbc s) hx
  | sbcAN n => exact .of_next (aluOnImmediate_effect .sbc n s) hx
  | andR r => exact .of_next (aluOnReg_effect .and r s) hx
  | andMemHl => exact .of_next (aluOnMemHl_effect .and s) hx
  | andN n => exact .of_next (aluOnImmediate_effect .and n s) hx
  | xorR r => exact .of_next (aluOnReg_effect .xor r s) hx
  | xorMemHl => exact .of_next (aluOnMemHl_effect .xor s) hx
  | xorN n => exact .of_next (aluOnImmediate_effect .xor n s) hx
  | orR r => exact .of_next (aluOnReg_effect .or r s) hx
  | orMemHl => exact .of_next (aluOnMemHl_effect .or s) hx
  | orN n => exact .of_next (aluOnImmediate_effect .or n s) hx
  | cpR r => exact .of_next (aluOnReg_effect .cp r s) hx
  | cpMemHl => exact .of_next (aluOnMemHl_effect .cp s) hx
  | cpN n => exact .of_next (aluOnImmediate_effect .cp n s) hx
  | retCc cond =>
    exact condJump_effect (returnToCaller_effect 11 _ (by omega)) (.of_cpu (by simp) (by simp) (by simp) (by simp)
      (by simp)) hx
  | popQq q => exact .of_next (.of_cpu (by simp) (by simp) (by simp) (by simp) (by simp; omega)) hx
  | ret => exact .of_next (returnToCaller_effect 10 _ (by omega)) hx
  | exx => exact .of_next (.of_cpu (by simp) (by simp) (by simp) (by simp) (by simp)) hx
  | jpHl => exact .of_next (.of_cpu (by simp) (by simp) (by simp) (by simp) (by simp)) hx
  | ldSpHl => exact .of_next (.of_cpu (by simp) (by simp) (by simp) (by simp) (by simp)) hx
  | jpCcNn cond nn => exact execJpCcNn_effect hx
  | jpNn nn =>
    exact .of_next (.of_cpu (by simp [State.jumpTo]) (by simp [State.jumpTo]) (by simp [State.jumpTo]) (by simp
      [State.jumpTo]) (by simp [State.jumpTo])) hx
  | prefixCb => exact .of_next (prefixStep_effect _ s) hx
  | outNA n => exact execOutNA_effect hx
  | inAN n => exact execInAN_effect hx
  | exMemSpHl =>
    exact .of_next ((exchangeStack_effect s.hl s).congr (by simp) (by simp) (by simp) (by simp) (by simp)) hx
  | exDeHl => exact .of_next (.of_cpu (by simp) (by simp) (by simp) (by simp) (by simp)) hx
  | di => exact .of_next (.of_cpu (by simp) (by simp) (by simp) (by simp) (by simp)) hx
  | ei => exact .of_next (.of_cpu (by simp) (by simp) (by simp) (by simp) (by simp)) hx
  | callCcNn cond nn =>
    exact condJump_effect (call_effect nn 17 _ (by omega)) (.of_cpu (by simp) (by simp) (by simp) (by simp) (by simp)) hx
  | pushQq q => exact .of_next (push_charge_effect _ _ (by omega) rfl rfl rfl rfl rfl) hx
  | callNn nn => exact .of_next (call_effect nn 17 _ (by omega)) hx
  | prefixDd => exact .of_next (prefixStep_effect _ s) hx
  | prefixEd => exact .of_next (prefixStep_effect _ s) hx
  | prefixFd => exact .of_next (prefixStep_effect _ s) hx
  | rst t => exact .of_next (call_effect _ 11 _ (by omega)) hx
  | rlcR r => exact .of_next (modifyReg_effect (rotOp .rlc) r s (by omega)) hx
  | rlcMemHl => exact .of_next (modifyMem_effect (rotOp .rlc) s.hl s (by omega)) hx
  | rrcR r => exact .of_next (modifyReg_effect (rotOp .rrc) r s (by omega)) hx
  | rrcMemHl => exact .of_next (modifyMem_effect (rotOp .rrc) s.hl s (by omega)) hx
  | rlR r => exact .of_next (modifyReg_effect (rotOp .rl) r s (by omega)) hx
  | rlMemHl => exact .of_next (modifyMem_effect (rotOp .rl) s.hl s (by omega)) hx
  | rrR r => exact .of_next (modifyReg_effect (rotOp .rr) r s (by omega)) hx
  | rrMemHl => exact .of_next (modifyMem_effect (rotOp .rr) s.hl s (by omega)) hx
  | slaR r => exact .of_next (modifyReg_effect (rotOp .sla) r s (by omega)) hx
  | slaMemHl => exact .of_next (modifyMem_effect (rotOp .sla) s.hl s (by omega)) hx
  | sraR r => exact .of_next (modifyReg_effect (rotOp .sra) r s (by omega)) hx
  | sraMemHl => exact .of_next (modifyMem_effect (rotOp .sra) s.hl s (by omega)) hx
  | sllR r => exact .of_next (modifyReg_effect (rotOp .sll) r s (by omega)) hx
  | sllMemHl => exact .of_next (modifyMem_effect (rotOp .sll) s.hl s (by omega)) hx
  | srlR r => exact .of_next (modifyReg_effect (rotOp .srl) r s (by omega)) hx
  | srlMemHl => exact .of_next (modifyMem_effect (rotOp .srl) s.hl s (by omega)) hx
  | bitR b r => exact .of_next (.of_cpu (by simp) (by simp) (by simp) (by simp) (by simp)) hx
  | bitMemHl b => exact .of_next (.of_cpu (by simp) (by simp) (by simp) (by simp) (by simp; omega)) hx
  | resR b r => exact .of_next (modifyReg_effect (resOp b) r s (by omega)) hx
  | resMemHl b => exact .of_next (modifyMem_effect (resOp b) s.hl s (by omega)) hx
  | setR b r => exact .of_next (modifyReg_effect (setOp b) r s (by omega)) hx
  | setMemHl b => exact .of_next (modifyMem_effect (setOp b) s.hl s (by omega)) hx
  | inRC r => exact execInRC_effect hx
  | inC => exact execInC_effect hx
  | outCR r => exact execOutCR_effect hx
  | outC0 => exact execOutC0_effect hx
  | sbcHlRp rp => exact .of_next (.of_cpu (by simp) (by simp) (by simp) (by simp) (by simp)) hx
  | adcHlRp rp => exact .of_next (.of_cpu (by simp) (by simp) (by simp) (by simp) (by simp)) hx
  | ldMemNnRp rp nn => exact .of_next (storeWord_effect _ _ s (by omega)) hx
  | ldRpMemNn rp nn =>
    exact .of_next (.of_cpu (by simp [loadedWord]) (by simp [loadedWord]) (by simp [loadedWord]) (by simp
      [loadedWord]) (by simp [loadedWord]; omega)) hx
  | neg y => exact .of_next (.of_cpu (by simp) (by simp) (by simp) (by simp) (by simp)) hx
  | retn y => exact returnFromInterrupt_effect hx
  | reti => exact returnFromInterrupt_effect hx
  | im0 y => exact .of_next (.of_cpu (by simp) (by simp) (by simp) (by simp) (by simp)) hx
  | im0Undoc y => exact .of_next (.of_cpu (by simp) (by simp) (by simp) (by simp) (by simp)) hx
  | im1 y => exact .of_next (.of_cpu (by simp) (by simp) (by simp) (by simp) (by simp)) hx
  | im2 y => exact .of_next (.of_cpu (by simp) (by simp) (by simp) (by simp) (by simp)) hx
  | ldIA => exact .of_next (.of_cpu (by simp) (by simp) (by simp) (by simp) (by simp)) hx
  | ldRA => exact .of_next (.of_cpu (by simp) (by simp) (by simp) (by simp) (by simp)) hx
  | ldAI => exact .of_next (.of_cpu (by simp) (by simp) (by simp) (by simp) (by simp)) hx
  | ldAR => exact .of_next (.of_cpu (by simp) (by simp) (by simp) (by simp) (by simp)) hx
  | rrd => exact .of_next (digitRotate_effect _ _ s) hx
  | rld => exact .of_next (digitRotate_effect _ _ s) hx
  | nopEd7 y => exact .of_next (.of_cpu (by simp) (by simp) (by simp) (by simp) (by simp)) hx
  | ldi => exact .of_next (ldBlock_effect .inc 12 _ s (by omega)) hx
  | ldd => exact .of_next (ldBlock_effect .dec 12 _ s (by omega)) hx
  | ldir => exact .of_next (ldBlockRepeat_effect .inc s) hx
  | lddr => exact .of_next (ldBlockRepeat_effect .dec s) hx
  | cpi => exact .of_next (cpBlock_effect .inc 12 _ s (by omega)) hx
  | cpd => exact .of_next (cpBlock_effect .dec 12 _ s (by omega)) hx
  | cpir => exact .of_next (cpBlockRepeat_effect .inc s) hx
  | cpdr => exact .of_next (cpBlockRepeat_effect .dec s) hx
  | ini => exact inBlock_effect (by omega) hx
  | ind => exact inBlock_effect (by omega) hx
  | inir => exact inBlockRepeat_effect hx
  | indr => exact inBlockRepeat_effect hx
  | outi => exact outBlock_effect (by omega) hx
  | outd => exact outBlock_effect (by omega) hx
  | otir => exact outBlockRepeat_effect hx
  | otdr => exact outBlockRepeat_effect hx
  | nopEd0 o => exact .of_next (.of_cpu (by simp) (by simp) (by simp) (by simp) (by simp)) hx
  | nopEd3 o => exact .of_next (.of_cpu (by simp) (by simp) (by simp) (by simp) (by simp)) hx
  | nopEd2 o => exact .of_next (.of_cpu (by simp) (by simp) (by simp) (by simp) (by simp)) hx
  | addXyRp xy rp => exact .of_next (.of_cpu (by simp) (by simp) (by simp) (by simp) (by simp)) hx
  | ldXyNn xy nn => exact .of_next (.of_cpu (by simp) (by simp) (by simp) (by simp) (by simp)) hx
  | ldMemNnXy xy nn => exact .of_next (storeWord_effect _ _ s (by omega)) hx
  | ldXyMemNn xy nn =>
    exact .of_next (.of_cpu (by simp [loadedWord]) (by simp [loadedWord]) (by simp [loadedWord]) (by simp
      [loadedWord]) (by simp [loadedWord]; omega)) hx
  | incXy xy => exact .of_next (.of_cpu (by simp) (by simp) (by simp) (by simp) (by simp)) hx
  | decXy xy => exact .of_next (.of_cpu (by simp) (by simp) (by simp) (by simp) (by simp)) hx
  | incXyHalf xy h => exact .of_next (modifyXyHalf_effect inc8 xy h s (by omega)) hx
  | decXyHalf xy h => exact .of_next (modifyXyHalf_effect dec8 xy h s (by omega)) hx
  | ldXyHalfN xy h n => exact .of_next (.of_cpu (by simp) (by simp) (by simp) (by simp) (by simp)) hx
  | incMemXy xy d => exact .of_next (modifyMemXy_effect inc8 xy d s (by omega)) hx
  | decMemXy xy d => exact .of_next (modifyMemXy_effect dec8 xy d s (by omega)) hx
  | ldMemXyN xy d n =>
    exact .of_next (.of_mem (fun hw => by simp [hw]) (fun k hk => by simp [hk]) (by simp) (by simp) (by simp) (by
      simp; omega)) hx
  | ldRMemXy xy r d => exact .of_next (.of_cpu (by simp) (by simp) (by simp) (by simp) (by simp; omega)) hx
  | ldMemXyR xy r d =>
    exact .of_next (.of_mem (fun hw => by simp [hw]) (fun k hk => by simp [hk]) (by simp) (by simp) (by simp) (by
      simp; omega)) hx
  | ldXyRR xy dst src => exact .of_next (.of_cpu (by simp) (by simp) (by simp) (by simp) (by simp)) hx
  | addAXyHalf xy h => exact .of_next (aluOnXyHalf_effect .add xy h s) hx
  | addAMemXy xy d => exact .of_next (aluOnMemXy_effect .add xy d s) hx
  | adcAXyHalf xy h => exact .of_next (aluOnXyHalf_effect .adc xy h s) hx
  | adcAMemXy xy d => exact .of_next (aluOnMemXy_effect .adc xy d s) hx
  | subXyHalf xy h => exact .of_next (aluOnXyHalf_effect .sub xy h s) hx
  | subMemXy xy d => exact .of_next (aluOnMemXy_effect .sub xy d s) hx
  | sbcAXyHalf xy h => exact .of_next (aluOnXyHalf_effect .sbc xy h s) hx
  | sbcAMemXy xy d => exact .of_next (aluOnMemXy_effect .sbc xy d s) hx
  | andXyHalf xy h => exact .of_next (aluOnXyHalf_effect .and xy h s) hx
  | andMemXy xy d => exact .of_next (aluOnMemXy_effect .and xy d s) hx
  | xorXyHalf xy h => exact .of_next (aluOnXyHalf_effect .xor xy h s) hx
  | xorMemXy xy d => exact .of_next (aluOnMemXy_effect .xor xy d s) hx
  | orXyHalf xy h => exact .of_next (aluOnXyHalf_effect .or xy h s) hx
  | orMemXy xy d => exact .of_next (aluOnMemXy_effect .or xy d s) hx
  | cpXyHalf xy h => exact .of_next (aluOnXyHalf_effect .cp xy h s) hx
  | cpMemXy xy d => exact .of_next (aluOnMemXy_effect .cp xy d s) hx
  | popXy xy => exact .of_next (.of_cpu (by simp) (by simp) (by simp) (by simp) (by simp; omega)) hx
  | exMemSpXy xy =>
    exact .of_next ((exchangeStack_effect (s.xy xy) s).congr (by simp) (by simp) (by simp) (by simp) (by simp)) hx
  | pushXy xy => exact .of_next (push_charge_effect _ _ (by omega) rfl rfl rfl rfl rfl) hx
  | jpXy xy => exact .of_next (.of_cpu (by simp) (by simp) (by simp) (by simp) (by simp)) hx
  | ldSpXy xy => exact .of_next (.of_cpu (by simp) (by simp) (by simp) (by simp) (by simp)) hx
  | prefixXyCb xy => exact .of_next (prefixStep_effect _ s) hx
  | prefixDdReplaces xy => exact .of_next (prefixStep_effect _ s) hx
  | prefixEdReplaces xy => exact .of_next (prefixStep_effect _ s) hx
  | prefixFdReplaces xy => exact .of_next (prefixStep_effect _ s) hx
  | prefixIgnored xy i =>
    change (if i.ignoresPrefix then execUnprefixed i s else _) = _ at hx
    split at hx
    · exact execUnprefixed_effect hx
    · cases hx
  | rlcMemXy xy d => exact .of_next (modifyMemXy_effect (rotOp .rlc) xy d s (by omega)) hx
  | rlcMemXyR xy d r => exact .of_next (modifyMemXyCopy_effect (rotOp .rlc) xy d r s (by omega)) hx
  | rrcMemXy xy d => exact .of_next (modifyMemXy_effect (rotOp .rrc) xy d s (by omega)) hx
  | rrcMemXyR xy d r => exact .of_next (modifyMemXyCopy_effect (rotOp .rrc) xy d r s (by omega)) hx
  | rlMemXy xy d => exact .of_next (modifyMemXy_effect (rotOp .rl) xy d s (by omega)) hx
  | rlMemXyR xy d r => exact .of_next (modifyMemXyCopy_effect (rotOp .rl) xy d r s (by omega)) hx
  | rrMemXy xy d => exact .of_next (modifyMemXy_effect (rotOp .rr) xy d s (by omega)) hx
  | rrMemXyR xy d r => exact .of_next (modifyMemXyCopy_effect (rotOp .rr) xy d r s (by omega)) hx
  | slaMemXy xy d => exact .of_next (modifyMemXy_effect (rotOp .sla) xy d s (by omega)) hx
  | slaMemXyR xy d r => exact .of_next (modifyMemXyCopy_effect (rotOp .sla) xy d r s (by omega)) hx
  | sraMemXy xy d => exact .of_next (modifyMemXy_effect (rotOp .sra) xy d s (by omega)) hx
  | sraMemXyR xy d r => exact .of_next (modifyMemXyCopy_effect (rotOp .sra) xy d r s (by omega)) hx
  | sllMemXy xy d => exact .of_next (modifyMemXy_effect (rotOp .sll) xy d s (by omega)) hx
  | sllMemXyR xy d r => exact .of_next (modifyMemXyCopy_effect (rotOp .sll) xy d r s (by omega)) hx
  | srlMemXy xy d => exact .of_next (modifyMemXy_effect (rotOp .srl) xy d s (by omega)) hx
  | srlMemXyR xy d r => exact .of_next (modifyMemXyCopy_effect (rotOp .srl) xy d r s (by omega)) hx
  | bitMemXy xy d b => exact .of_next (bitIndexed_effect _ b s) hx
  | bitMemXyDup xy d b r => exact .of_next (bitIndexed_effect _ b s) hx
  | resMemXy xy d b => exact .of_next (modifyMemXy_effect (resOp b) xy d s (by omega)) hx
  | resMemXyR xy d b r => exact .of_next (modifyMemXyCopy_effect (resOp b) xy d r s (by omega)) hx
  | setMemXy xy d b => exact .of_next (modifyMemXy_effect (setOp b) xy d s (by omega)) hx
  | setMemXyR xy d b r => exact .of_next (modifyMemXyCopy_effect (setOp b) xy d r s (by omega)) hx

/-! ### Fetching -/

theorem State.afterFetch_cpu (s : State) (n : Nat) :
    (s.afterFetch n).cpu =
      { s.cpu with
        pc := s.cpu.pc + BitVec.ofNat 16 n, pfx := .none
        r := if countsM1 s.cpu.pfx then nextR s.cpu.r else s.cpu.r
        tacts := s.cpu.tacts + s.waits (s.fetchAccesses n) } := by
  unfold State.afterFetch
  split <;> simp
@[simp] theorem State.afterFetch_mem (s : State) (n : Nat) : (s.afterFetch n).mem = s.mem := by
  unfold State.afterFetch
  split <;> rfl
@[simp] theorem State.afterFetch_ula (s : State) (n : Nat) : (s.afterFetch n).ula = s.ula := by
  unfold State.afterFetch
  split <;> rfl
@[simp] theorem State.afterFetch_tape (s : State) (n : Nat) : (s.afterFetch n).tape = s.tape := by
  unfold State.afterFetch
  split <;> rfl
@[simp] theorem State.afterFetch_env (s : State) (n : Nat) : (s.afterFetch n).env = s.env := by
  unfold State.afterFetch
  split <;> rfl

/-- What a fetch answers: the row the bytes at PC decode to, and the state past them. -/
theorem State.fetch_next {s : State} {x : Instr × State} :
    s.fetch = .next x ↔
      ∃ rest, decode s.cpu.pfx s.fetchWindow = .ok (x.1, rest) ∧ x.2 = s.afterFetch (3 - rest.length) := by
  unfold State.fetch
  split
  · rename_i i rest h
    simp only [h, Host.Outcome.next.injEq, Except.ok.injEq, Prod.mk.injEq]
    constructor
    · rintro rfl
      exact ⟨rest, ⟨rfl, rfl⟩, rfl⟩
    · rintro ⟨rest', ⟨hi, hr⟩, hx⟩
      subst hr
      exact Prod.ext hi hx.symm
  · rename_i e h
    simp [h]

/-! ### A CPU step -/

theorem fetchAndExecute_effect {s t : State} (h : fetchAndExecute s = .next t) : Effect s t := by
  unfold fetchAndExecute at h
  rw [andThen_next] at h
  obtain ⟨x, hx, h⟩ := h
  obtain ⟨rest, -, hs⟩ := State.fetch_next.mp hx
  have e := exec_effect h
  rw [hs] at e
  have hle : s.cpu.tacts ≤ (s.afterFetch (3 - rest.length)).cpu.tacts := by simp [State.afterFetch_cpu]
  exact ⟨by rw [e.env]; simp, le_trans (by omega) e.tacts, by simpa using e.wf, by simpa using e.rom,
    by simpa using e.ula, by simpa using e.tape⟩

theorem haltedCycle_effect (s : State) : Effect s (haltedCycle s) :=
  .of_cpu (by simp [haltedCycle]) (by simp [haltedCycle]) (by simp [haltedCycle]) (by simp [haltedCycle])
    (by simp [haltedCycle])

theorem enterHandler_effect {s u : State} (target : State → Word) {n : Nat} (l : List Access) (hn : 4 ≤ n)
    (hm : u.mem = s.mem) (hu : u.ula = s.ula) (ht : u.tape = s.tape) (he : u.env = s.env)
    (hc : u.cpu.tacts = s.cpu.tacts) : Effect s (u.enterHandler target n l) := by
  apply Effect.of_mem
  · intro h
    have : u.mem.wf = true := hm ▸ h
    simp [this]
  · intro k hk
    simp [hk, hm]
  · simp [hu]
  · simp [ht]
  · simp [he]
  · rw [State.enterHandler_cpu]
    show s.cpu.tacts + 4 ≤ u.cpu.tacts + n + _
    omega

theorem acceptNmi_effect (s : State) : Effect s (acceptNmi s) :=
  enterHandler_effect _ _ (by omega) (by simp) (by simp) (by simp) (by simp) (by simp [State.acknowledge_cpu])

theorem acceptInt_effect (s : State) : Effect s (acceptInt s) := by
  unfold acceptInt
  cases s.cpu.im
  · exact .of_cpu (by simp) (by simp) (by simp) (by simp) (by simp [State.acknowledge_cpu, im0AckTacts])
  · exact enterHandler_effect _ _ (by omega) (by simp) (by simp) (by simp) (by simp) (by simp [State.acknowledge_cpu])
  · exact enterHandler_effect _ _ (by omega) (by simp) (by simp) (by simp) (by simp) (by simp [State.acknowledge_cpu])

theorem runStep_effect {s t : State} (h : runStep s = .next t) : Effect s t := by
  unfold runStep at h
  split at h
  · exact .of_next (haltedCycle_effect s) h
  · exact fetchAndExecute_effect h

/-- What the CPU's part of a step can do. -/
theorem cpuStep_effect {s t : State} (h : cpuStep s = .next t) : Effect s t := by
  unfold cpuStep at h
  split at h
  · unfold sampleAndRun at h
    have key : ∀ u, Effect (s.setEiBlock false) u → Effect s u := fun u e =>
      ⟨e.env, e.tacts, e.wf, e.rom, e.ula, e.tape⟩
    simp only at h
    split at h
    · exact key _ (.of_next (acceptNmi_effect _) h)
    · split at h
      · exact key _ (.of_next (acceptInt_effect _) h)
      · exact key _ (runStep_effect h)
  · exact runStep_effect h

/-- A step is the CPU's part and, where the ULA's time allows it, the ULA's catch-up. -/
theorem step_next {s t : State} :
    step s = .next t ↔
      ∃ u, cpuStep s = .next u ∧ u.ula.timeOk u.cpu.tacts = true ∧
        t = { u with ula := u.ula.catchUp u.mem u.cpu.tacts } := by
  unfold step cycle
  rw [andThen_next]
  constructor
  · rintro ⟨u, hu, h⟩
    unfold State.finishStep at h
    split at h
    · rename_i hok
      cases h
      exact ⟨u, hu, hok, rfl⟩
    · cases h
  · rintro ⟨u, hu, hok, rfl⟩
    exact ⟨u, hu, by simp [State.finishStep, hok]⟩

/-- At an instruction boundary the CPU's part of a step is the sampling point's choice (60_exceptions.md R554). -/
theorem cpuStep_boundary {s : State} (h : s.cpu.pfx = .none) : cpuStep s = sampleAndRun s := by simp [cpuStep, h]

/-- Inside an instruction nothing is sampled (60_exceptions.md R551). -/
theorem cpuStep_inside {s : State} (h : s.cpu.pfx ≠ .none) : cpuStep s = runStep s := by simp [cpuStep, h]

end Sys2Proof.Machine
end

