-- ==== Sys2Proof/Laws/Tape.lean ====
section
/-! SUPPORT. What the tape player's operations can do, said once: how a block starts, how a query ends. -/

namespace Sys2Proof.Machine

/-- The player's time is right at the tact `t`, as `State.tapeTimed` says it of a playing player. -/
structure TapeTime (p : Tape) (t : Nat) : Prop where
  queried : p.lastQueryTact ≤ t
  current : p.playPhase ≠ .completed →
    ∃ b, p.currentBlock = some b ∧ b.playback = .playable ∧ b.usedBitsOk = true ∧ p.blockStart ≤ p.lastQueryTact

theorem TapeTime.mono {p : Tape} {t t' : Nat} (h : TapeTime p t) (ht : t ≤ t') : TapeTime p t' :=
  ⟨le_trans h.queried ht, h.current⟩

/-- An outcome that stops, if it stops, on a block the player has no playback for. -/
def OnlyUnsupported {α : Type} (o : Host.Outcome α Fault Refusal) : Prop :=
  (∃ x, o = .next x) ∨ ∃ id, o = .refused (.unsupportedTapeBlock id)

theorem OnlyUnsupported.next {α : Type} (x : α) : OnlyUnsupported (.next x) := .inl ⟨x, rfl⟩

theorem OnlyUnsupported.andThen {α β : Type} {o : Host.Outcome α Fault Refusal} {k : α → Host.Outcome β Fault Refusal}
    (ho : OnlyUnsupported o) (hk : ∀ x, o = .next x → OnlyUnsupported (k x)) : OnlyUnsupported (andThen o k) := by
  obtain ⟨x, rfl⟩ | ⟨id, rfl⟩ := ho
  · exact hk x rfl
  · exact .inr ⟨id, rfl⟩

/-- A playable block has a timeline. -/
theorem TzxBlock.timeline_of_playable {b : TzxBlock} (h : b.playback = .playable) : ∃ tl, b.timeline = some tl := by
  cases b <;> simp_all [TzxBlock.playback, TzxBlock.timeline]

/-- What starting a block does (R514). -/
theorem Tape.initPlayBlock_next {p q : Tape} {index : Nat} {b : TzxBlock} {s : Nat}
    (h : p.initPlayBlock index b s = .next q) :
    b.playback = .playable ∧ b.usedBitsOk = true ∧ ∃ tl, b.timeline = some tl ∧
      q = { p with
        currentBlockIndex := index, currentBlock := some b, blockStart := s, blockPhase := (tl.at 0).phase
        byteIndex := 0, bitMask := 0x80 } := by
  unfold Tape.initPlayBlock at h
  split at h
  · cases h
  · rename_i tl htl
    split at h
    · rename_i hb
      cases h
      exact ⟨hb.1, hb.2, tl, htl, rfl⟩
    · cases h

/-- Starting a block stops only on a block without playback (R510, R514). -/
theorem Tape.initPlayBlock_stops (p : Tape) (index : Nat) (b : TzxBlock) (s : Nat) :
    OnlyUnsupported (p.initPlayBlock index b s) := by
  unfold Tape.initPlayBlock
  split
  · exact .inr ⟨_, rfl⟩
  · split
    · exact .next _
    · exact .inr ⟨_, rfl⟩

/-- What `NextBlock` does (R522): the player is completed, or a playable block starts at `s`. -/
theorem Tape.nextBlock_next {p q : Tape} {s : Nat} (h : Tape.nextBlock s p = .next q) :
    q = { p with playPhase := .completed, currentBlock := none } ∨
      ∃ index b tl, nextUnskipped (p.blocks.drop (p.currentBlockIndex + 1).toNat) (p.currentBlockIndex + 1).toNat =
          some (index, b) ∧ b.playback = .playable ∧ b.usedBitsOk = true ∧ b.timeline = some tl ∧
        q = { p with
          currentBlockIndex := index, currentBlock := some b, blockStart := s, blockPhase := (tl.at 0).phase
          byteIndex := 0, bitMask := 0x80 } := by
  unfold Tape.nextBlock at h
  simp only at h
  split at h
  · cases h
    exact .inl rfl
  · rename_i index b hb
    obtain ⟨h1, h2, tl, h3, rfl⟩ := Tape.initPlayBlock_next h
    exact .inr ⟨index, b, tl, hb, h1, h2, h3, rfl⟩

/-- `NextBlock` stops only on a block without playback. -/
theorem Tape.nextBlock_stops (p : Tape) (s : Nat) : OnlyUnsupported (Tape.nextBlock s p) := by
  unfold Tape.nextBlock
  simp only
  split
  · exact .next _
  · exact Tape.initPlayBlock_stops _ _ _ _

/-- `NextBlock` leaves the list, the playing flag and the last query alone. -/
theorem Tape.nextBlock_keeps {p q : Tape} {s : Nat} (h : Tape.nextBlock s p = .next q) :
    q.loaded = p.loaded ∧ q.blocks = p.blocks ∧ q.playing = p.playing ∧ q.lastQueryTact = p.lastQueryTact := by
  obtain rfl | ⟨index, b, tl, -, -, -, -, rfl⟩ := Tape.nextBlock_next h <;> exact ⟨rfl, rfl, rfl, rfl⟩

/-- A block that `NextBlock(s)` starts not after the last query keeps the player's time. -/
theorem TapeTime.nextBlock {p q : Tape} {s t : Nat} (hq : p.lastQueryTact ≤ t) (hs : s ≤ p.lastQueryTact)
    (h : Tape.nextBlock s p = .next q) : TapeTime q t := by
  obtain rfl | ⟨index, b, tl, -, h1, h2, -, rfl⟩ := Tape.nextBlock_next h
  · exact ⟨hq, fun hc => absurd rfl hc⟩
  · exact ⟨hq, fun _ => ⟨b, rfl, h1, h2, hs⟩⟩

/-- `InitPlay(t)` starts the player with its time right at `t` (R513). -/
theorem TapeTime.initPlay {p q : Tape} {t : Nat} (h : p.initPlay t = .next q) : TapeTime q t ∧ q.playing = true :=
  ⟨TapeTime.nextBlock (Nat.le_refl _) (Nat.le_refl _) h, (Tape.nextBlock_keeps h).2.2.1⟩

/-- The loop of `GetEarBit(t)` keeps what no block start writes. -/
theorem Tape.advance_keeps {fuel t : Nat} {p q : Tape} (h : Tape.advance fuel t p = .next q) :
    q.loaded = p.loaded ∧ q.blocks = p.blocks ∧ q.playing = p.playing ∧ q.lastQueryTact = p.lastQueryTact := by
  induction fuel generalizing p with
  | zero => cases h; exact ⟨rfl, rfl, rfl, rfl⟩
  | succ n ih =>
    unfold Tape.advance at h
    split at h
    · cases h; exact ⟨rfl, rfl, rfl, rfl⟩
    · cases h; exact ⟨rfl, rfl, rfl, rfl⟩
    · split at h
      · rw [andThen_next] at h
        obtain ⟨p1, h1, h2⟩ := h
        obtain ⟨a1, a2, a3, a4⟩ := ih h2
        obtain ⟨b1, b2, b3, b4⟩ := Tape.nextBlock_keeps h1
        exact ⟨a1.trans b1, a2.trans b2, a3.trans b3, a4.trans b4⟩
      · cases h; exact ⟨rfl, rfl, rfl, rfl⟩

/-- The loop of `GetEarBit(t)`, entered with the last query at `t`, keeps the player's time and stops only on a block
without playback (R521, R525). -/
theorem TapeTime.advance {fuel t : Nat} {p : Tape} (h : TapeTime p t) (ht : p.lastQueryTact = t) :
    OnlyUnsupported (Tape.advance fuel t p) ∧ ∀ q, Tape.advance fuel t p = .next q → TapeTime q t := by
  induction fuel generalizing p with
  | zero => exact ⟨.next _, fun q hq => by cases hq; exact h⟩
  | succ n ih =>
    unfold Tape.advance
    split
    · exact ⟨.next _, fun q hq => by cases hq; exact h⟩
    · exact ⟨.next _, fun q hq => by cases hq; exact h⟩
    · rename_i tl _ _
      split
      · rename_i hle
        have hstep : ∀ q, Tape.nextBlock (p.blockStart + tl.duration) { p with blockPhase := .completed } = .next q →
            TapeTime q t ∧ q.lastQueryTact = t := fun q hq =>
          ⟨TapeTime.nextBlock (p := { p with blockPhase := .completed }) h.queried (by rw [ht]; exact hle) hq,
            (Tape.nextBlock_keeps hq).2.2.2.trans ht⟩
        constructor
        · exact (Tape.nextBlock_stops _ _).andThen fun q hq => (ih (hstep q hq).1 (hstep q hq).2).1
        · intro q hq
          rw [andThen_next] at hq
          obtain ⟨p1, h1, h2⟩ := hq
          exact (ih (hstep p1 h1).1 (hstep p1 h1).2).2 q h2
      · exact ⟨.next _, fun q hq => by cases hq; exact h⟩

/-- The sample of a player whose time is right always answers, and keeps the time. -/
theorem TapeTime.sample {t : Nat} {p : Tape} (h : TapeTime p t) :
    ∃ b q, Tape.sample t p = .next (b, q) ∧ TapeTime q t ∧ q.playing = p.playing := by
  unfold Tape.sample
  split
  · exact ⟨_, p, rfl, h, rfl⟩
  · rename_i hn hc
    obtain ⟨b, hb, hp, -, -⟩ := h.current (fun e => hc e)
    obtain ⟨tl, htl⟩ := TzxBlock.timeline_of_playable hp
    rw [hb] at hn
    simp [htl] at hn
  · exact ⟨_, _, rfl, ⟨h.queried, h.current⟩, rfl⟩

/-- A query at `t` of a player whose time is right at `t` stops only on a block without playback, and leaves the time
right, the last query at `t`, the list and the playing flag as they were (R521). -/
theorem TapeTime.getEarBit {t : Nat} {p : Tape} (h : TapeTime p t) :
    OnlyUnsupported (p.getEarBit t) ∧
      ∀ b q, p.getEarBit t = .next (b, q) → TapeTime q t ∧ q.playing = p.playing := by
  have h0 : TapeTime { p with lastQueryTact := t } t := by
    refine ⟨Nat.le_refl _, fun hc => ?_⟩
    obtain ⟨b, h1, h2, h3, h4⟩ := h.current hc
    exact ⟨b, h1, h2, h3, le_trans h4 h.queried⟩
  unfold Tape.getEarBit
  rw [if_neg (Nat.not_lt.mpr h.queried)]
  have a := TapeTime.advance (fuel := p.blocks.length + 1) h0 rfl
  constructor
  · refine a.1.andThen fun q hq => ?_
    obtain ⟨b, r, hr, -⟩ := (a.2 q hq).sample
    exact hr ▸ .next _
  · intro b q hq
    rw [andThen_next] at hq
    obtain ⟨p1, h1, h2⟩ := hq
    obtain ⟨b', q', h3, h4, h5⟩ := (a.2 p1 h1).sample
    rw [h3] at h2
    cases h2
    exact ⟨h4, h5.trans (Tape.advance_keeps h1).2.2.1⟩

end Sys2Proof.Machine
end

