-- ==== Sys2Proof/Laws/Tzx.lean ====
section
/-! SUPPORT. What the TZX decoder's operations can do, said once: fields of bytes, entries, the length of a body, and one
turn of the loop of `ReadContent`. -/

namespace Sys2Proof.Machine

/-! ### Fields -/

@[simp] theorem littleEndian_length (k n : Nat) : (littleEndian k n).length = k := by
  induction k generalizing n with
  | zero => rfl
  | succ k ih => simp [littleEndian, ih]

@[simp] theorem byteField_cons_zero (v : Byte) (bytes : List Byte) : byteField (v :: bytes) 0 = v := rfl

@[simp] theorem byteField_cons_succ (v : Byte) (bytes : List Byte) (o : Nat) :
    byteField (v :: bytes) (o + 1) = byteField bytes o := by
  simp [byteField]

/-- A field within the first bytes does not depend on the bytes behind them. -/
theorem byteField_append {bytes : List Byte} {o : Nat} (h : o < bytes.length) (more : List Byte) :
    byteField (bytes ++ more) o = byteField bytes o := by
  simp [byteField, List.getD, List.getElem?_append_left h]

theorem wordField_append {bytes : List Byte} {o : Nat} (h : o + 1 < bytes.length) (more : List Byte) :
    wordField (bytes ++ more) o = wordField bytes o := by
  simp [wordField, byteField_append h, byteField_append (show o < bytes.length by omega)]

theorem numberField_append {bytes : List Byte} {o k : Nat} (h : o + k ≤ bytes.length) (more : List Byte) :
    numberField (bytes ++ more) o k = numberField bytes o k := by
  induction k generalizing o with
  | zero => rfl
  | succ k ih => simp [numberField, byteField_append (show o < bytes.length by omega), ih (show o + 1 + k ≤ _ by omega)]

/-- The fields behind some bytes. -/
theorem numberField_behind (front bytes : List Byte) (k : Nat) :
    numberField (front ++ bytes) front.length k = numberField bytes 0 k := by
  have byte (o : Nat) : byteField (front ++ bytes) (front.length + o) = byteField bytes o := by
    simp [byteField, List.getD, List.getElem?_append_right]
  have all (k o : Nat) : numberField (front ++ bytes) (front.length + o) k = numberField bytes o k := by
    induction k generalizing o with
    | zero => rfl
    | succ k ih => simp only [numberField, byte, Nat.add_assoc, ih]
  exact all k 0

/-- A number read back from its bytes. -/
theorem numberField_littleEndian {k n : Nat} (h : n < 256 ^ k) (more : List Byte) :
    numberField (littleEndian k n ++ more) 0 k = n := by
  induction k generalizing n with
  | zero => simp only [pow_zero] at h; simp [numberField]; omega
  | succ k ih =>
    have := numberField_behind [BitVec.ofNat 8 n] (littleEndian k (n / 256) ++ more) k
    simp only [List.length_singleton, List.singleton_append] at this
    simp only [littleEndian, List.cons_append, numberField, byteField_cons_zero, Nat.zero_add, this]
    rw [ih (by rw [pow_succ] at h; omega)]
    simp
    omega

/-- A word read back from its bytes. -/
@[simp] theorem word_wordBytes (w : Word) : word (BitVec.ofNat 8 (w.toNat / 256)) (BitVec.setWidth 8 w) = w := by
  unfold word
  apply BitVec.eq_of_toNat_eq
  have := w.isLt
  rw [BitVec.toNat_append, BitVec.toNat_ofNat, BitVec.toNat_setWidth, ← Nat.shiftLeft_add_eq_or_of_lt (by omega),
    Nat.shiftLeft_eq]
  omega

/-- A number of two bytes read back as a word. -/
@[simp] theorem word_toNat_ofNat (n : Nat) :
    (word (BitVec.ofNat 8 (n / 256)) (BitVec.ofNat 8 n)).toNat = n % 65536 := by
  unfold word
  rw [BitVec.toNat_append, BitVec.toNat_ofNat, BitVec.toNat_ofNat, ← Nat.shiftLeft_add_eq_or_of_lt (by omega),
    Nat.shiftLeft_eq]
  omega

theorem wordBytes_eq (w : Word) : wordBytes w = [BitVec.ofNat 8 w.toNat, BitVec.ofNat 8 (w.toNat / 256)] := rfl

@[simp] theorem wordsOf_flatMap (words : List Word) : wordsOf (words.flatMap wordBytes) = words := by
  induction words with
  | nil => rfl
  | cons w words ih => simp [wordBytes_eq, wordsOf, ih]

@[simp] theorem triplesOf_flatMap (entries : List (Byte × Byte × Byte)) :
    triplesOf (entries.flatMap fun e => [e.1, e.2.1, e.2.2]) = entries := by
  induction entries with
  | nil => rfl
  | cons e entries ih => simp [triplesOf, ih]

theorem length_flatMap_wordBytes (words : List Word) : (words.flatMap wordBytes).length = 2 * words.length := by
  induction words with
  | nil => rfl
  | cons w words ih => simp [wordBytes_eq] at ih ⊢; omega

/-! ### Entries -/

theorem lengthText_counted {text : List Byte} (h : text.length < 256) (rest : List Byte) :
    lengthText (counted 1 text ++ rest) = some (text, rest) := by
  simp [counted, littleEndian, lengthText, Nat.mod_eq_of_lt h]

@[simp] theorem archiveTextId_byte {id : ArchiveTextId} (h : ∀ x, id = .other x → 0x01 < x.toNat) :
    archiveTextId id.byte = id := by
  cases id with
  | title => rfl
  | publisher => rfl
  | other x =>
    have := h x rfl
    unfold archiveTextId ArchiveTextId.byte
    rw [if_neg (by rintro rfl; exact absurd this (by decide)), if_neg (by rintro rfl; exact absurd this (by decide))]

/-- Entries read back from their bytes: all of them, and the bytes behind. -/
theorem entriesOf_flatMap {α : Type} {entry : List Byte → Option (α × List Byte)} {bytes : α → List Byte}
    {entries : List α} (h : ∀ x ∈ entries, ∀ rest, entry (bytes x ++ rest) = some (x, rest)) (rest : List Byte) :
    entriesOf entry entries.length (entries.flatMap bytes ++ rest) = (entries, rest) := by
  induction entries with
  | nil => rfl
  | cons x entries ih =>
    simp only [List.length_cons, List.flatMap_cons, List.append_assoc, entriesOf, h x (by simp),
      ih fun y hy => h y (by simp [hy])]

theorem selection_bytes {t : Selection} (h : t.text.length < 256) (rest : List Byte) :
    selection (t.bytes ++ rest) = some (t, rest) := by
  simp [Selection.bytes, wordBytes_eq, selection, lengthText_counted h]

theorem archiveText_bytes {t : ArchiveText} (h : t.text.length < 256) (hid : ∀ x, t.id = .other x → 0x01 < x.toNat)
    (rest : List Byte) : archiveText (t.bytes ++ rest) = some (t, rest) := by
  simp [ArchiveText.bytes, archiveText, lengthText_counted h, archiveTextId_byte hid]

/-! ### The length of a body -/

/-- The length of a body is known from the bytes that give it. -/
theorem bodyShape_append {id : Byte} {bytes : List Byte} (h : (bodyShape id bytes).1 ≤ bytes.length) (more : List Byte) :
    bodyShape id (bytes ++ more) = bodyShape id bytes := by
  unfold bodyShape at h ⊢
  split at h <;> simp only at h ⊢ <;>
    first
    | rfl
    | rw [wordField_append (by omega)]
    | rw [byteField_append (by omega)]
    | rw [numberField_append (by omega)]

/-! ### Blocks -/

/-- What the decoder reads from a block in its layout. -/
theorem TzxBlock.LaidOut.body {b : TzxBlock} {bytes : List Byte} (h : b.LaidOut bytes) :
    ∃ body, bytes = b.id :: body ∧ tzxRegistry.contains b.id = true ∧ (bodyShape b.id body).1 ≤ body.length ∧
      (bodyShape b.id body).2 = body.length ∧ decodeTapeBlock b.id body = b := by
  cases b
  case deprecated id =>
    obtain ⟨payload, ⟨rfl | rfl, hl, rfl⟩ | ⟨rfl, hl, rfl⟩ | ⟨rfl, hl, kind, rfl⟩⟩ := h
    · exact ⟨_, rfl, by decide, by simp [TzxBlock.id, bodyShape, counted], by
        simp [TzxBlock.id, bodyShape, counted, numberField_littleEndian (k := 4) hl], rfl⟩
    · exact ⟨_, rfl, by decide, by simp [TzxBlock.id, bodyShape, counted], by
        simp [TzxBlock.id, bodyShape, counted, numberField_littleEndian (k := 4) hl], rfl⟩
    · exact ⟨_, rfl, by decide, by simp [TzxBlock.id, bodyShape, hl], by simp [TzxBlock.id, bodyShape, hl], rfl⟩
    · refine ⟨_, rfl, by decide, by simp [TzxBlock.id, bodyShape, counted], ?_, rfl⟩
      have := numberField_behind [kind] (counted 3 payload) 3
      simp only [counted, numberField_littleEndian (k := 3) hl] at this
      simp [TzxBlock.id, bodyShape, counted] at this ⊢
      omega
  all_goals simp only [TzxBlock.LaidOut] at h
  case cswRecording header data =>
    obtain ⟨hl, ⟨⟩, rfl, hs, hp, rfl⟩ := h
    simp only at hs hp
    refine ⟨_, rfl, rfl, ?_, ?_, ?_⟩ <;>
      simp [TzxBlock.id, bodyShape, decodeTapeBlock, cswRecordingOf, counted, wordBytes_eq, littleEndian, wordField,
        numberField] <;> omega
  case generalizedData header data =>
    obtain ⟨hl, ⟨⟩, rfl, hs, hp, rfl⟩ := h
    simp only at hs hp
    refine ⟨_, rfl, rfl, ?_, ?_, ?_⟩ <;>
      simp [TzxBlock.id, bodyShape, decodeTapeBlock, generalizedDataOf, counted, wordBytes_eq, littleEndian, wordField,
        numberField] <;> omega
  case selectBlock count entries rest =>
    obtain ⟨hn, rfl, ht, hl, rfl⟩ := h
    have e := entriesOf_flatMap (entry := selection) (fun t h r => selection_bytes (ht t h) r) rest
    refine ⟨_, rfl, rfl, ?_, ?_, ?_⟩
    · simp [TzxBlock.id, bodyShape, counted]
    · simp [TzxBlock.id, bodyShape, counted, littleEndian, wordField] at hl ⊢
      omega
    · simp [TzxBlock.id, decodeTapeBlock, counted, littleEndian, selectBlockOf, Nat.mod_eq_of_lt (show entries.length < 256 from hn), e]
  case archiveInfo count entries rest =>
    obtain ⟨hn, rfl, ht, hl, rfl⟩ := h
    have e := entriesOf_flatMap (entry := archiveText) (fun t h r => archiveText_bytes (ht t h).1 (ht t h).2 r) rest
    refine ⟨_, rfl, rfl, ?_, ?_, ?_⟩
    · simp [TzxBlock.id, bodyShape, counted]
    · simp [TzxBlock.id, bodyShape, counted, littleEndian, wordField] at hl ⊢
      omega
    · simp [TzxBlock.id, decodeTapeBlock, counted, littleEndian, archiveInfoOf, Nat.mod_eq_of_lt (show entries.length < 256 from hn), e]
  case setSignalLevel level rest =>
    obtain ⟨hl, v, rfl, rfl⟩ := h
    refine ⟨_, rfl, rfl, ?_, ?_, ?_⟩ <;>
      simp [TzxBlock.id, bodyShape, decodeTapeBlock, setSignalLevelOf, counted, littleEndian, numberField] 
    omega
  case customInfo ident info =>
    obtain ⟨h16, hl, rfl⟩ := h
    have n := numberField_behind ident (littleEndian 4 info.length ++ info) 4
    rw [numberField_littleEndian (k := 4) hl, h16] at n
    refine ⟨_, rfl, rfl, ?_, ?_, ?_⟩
    · simp [TzxBlock.id, bodyShape, counted, h16]; omega
    · simp [TzxBlock.id, bodyShape, counted, h16, n]; omega
    · simp [TzxBlock.id, decodeTapeBlock, counted, h16, List.drop_append, littleEndian]
  case glue signature major minor =>
    obtain ⟨rfl, rfl⟩ := h
    exact ⟨_, rfl, rfl, Nat.le_refl 9, rfl, rfl⟩
  all_goals
    refine ⟨bytes.tail, ?_, rfl, ?_, ?_, ?_⟩ <;>
      first
      | subst h
        simp [TzxBlock.id, bodyShape, decodeTapeBlock, wordBytes_eq, wordField]
      | obtain ⟨hl, rfl⟩ := h
        simp [TzxBlock.id, bodyShape, decodeTapeBlock, counted, wordBytes_eq, littleEndian, wordField, numberField]
        done
      | obtain ⟨hl, rfl⟩ := h
        simp [TzxBlock.id, bodyShape, counted, wordBytes_eq, littleEndian, wordField, numberField]
        omega

/-- A body that ends before the length it declares, or before the bytes that declare it, has no `BodyLength` (R495). -/
theorem bodyLength_take {id : Byte} {body : List Byte} (h : (bodyShape id body).2 = body.length) {k : Nat}
    (hk : k < body.length) : bodyLength id (body.take k) = none := by
  unfold bodyLength
  rw [if_neg]
  rintro ⟨h1, h2⟩
  have e := bodyShape_append h1 (body.drop k)
  rw [List.take_append_drop] at e
  rw [← e, h, List.length_take] at h2
  omega

/-- The `BodyLength` of a whole body, whatever follows it. -/
theorem bodyLength_append {id : Byte} {body : List Byte} (h1 : (bodyShape id body).1 ≤ body.length)
    (h2 : (bodyShape id body).2 = body.length) (rest : List Byte) :
    bodyLength id (body ++ rest) = some body.length := by
  unfold bodyLength
  rw [bodyShape_append h1, h2, if_pos]
  rw [List.length_append]
  omega

/-- One turn of the loop of `ReadContent` over a block in its layout (R492). -/
theorem readBlocks_laidOut {b : TzxBlock} {bytes : List Byte} (h : b.LaidOut bytes) (fuel o : Nat) (rest : List Byte) :
    readBlocks (fuel + 1) o (bytes ++ rest) = (readBlocks fuel (o + bytes.length) rest).map (b :: ·) := by
  obtain ⟨body, rfl, h1, h2, h3, h4⟩ := h.body
  simp only [List.cons_append, readBlocks, h1, if_true, bodyLength_append h2 h3, List.drop_left, List.take_left, h4,
    List.length_cons]
  rw [show o + 1 + body.length = o + (body.length + 1) by omega]
  cases readBlocks fuel (o + (body.length + 1)) rest <;> rfl

end Sys2Proof.Machine
end

