-- ==== Sys2Proof/Laws/Ula.lean ====
section
/-! SUPPORT. What painting, rendering and completing frames can do to the ULA, said once. -/

namespace Sys2Proof.Machine

/-- Everything of the ULA but what painting writes: the buffer and the latches. -/
structure SameButPixels (v w : Ula) : Prop where
  frameStart : w.frameStart = v.frameStart
  frameCount : w.frameCount = v.frameCount
  overflow : w.overflow = v.overflow
  borderColour : w.borderColour = v.borderColour
  lastRenderedTact : w.lastRenderedTact = v.lastRenderedTact
  flashPhase : w.flashPhase = v.flashPhase
  earOut : w.earOut = v.earOut
  micOut : w.micOut = v.micOut

theorem SameButPixels.refl (v : Ula) : SameButPixels v v := ⟨rfl, rfl, rfl, rfl, rfl, rfl, rfl, rfl⟩

theorem SameButPixels.trans {v w x : Ula} (h : SameButPixels v w) (h' : SameButPixels w x) : SameButPixels v x :=
  ⟨h'.1.trans h.1, h'.2.trans h.2, h'.3.trans h.3, h'.4.trans h.4, h'.5.trans h.5, h'.6.trans h.6, h'.7.trans h.7,
    h'.8.trans h.8⟩

/-! ### Painting -/

theorem Ula.latchCell_same (m : Memory) (v : Ula) (row col : Nat) : SameButPixels v (v.latchCell m row col) := by
  unfold Ula.latchCell
  simp only
  split <;> exact ⟨rfl, rfl, rfl, rfl, rfl, rfl, rfl, rfl⟩

@[simp] theorem Ula.latchCell_buffer (m : Memory) (v : Ula) (row col : Nat) :
    (v.latchCell m row col).buffer = v.buffer := by
  unfold Ula.latchCell
  simp only
  split <;> rfl

theorem Ula.paintPixel_same (v : Ula) (row col : Nat) : SameButPixels v (v.paintPixel row col) :=
  ⟨rfl, rfl, rfl, rfl, rfl, rfl, rfl, rfl⟩

/-- `Paint` changes pixels and latches only. -/
theorem Ula.paint_same (m : Memory) (v : Ula) (u : Nat) : SameButPixels v (v.paint m u) := by
  unfold Ula.paint
  split
  · exact ((Ula.latchCell_same m v _ _).trans (Ula.paintPixel_same _ _ _)).trans (Ula.paintPixel_same _ _ _)
  · exact .refl v

/-- The pixels of a visible tact lie on the screen. -/
theorem tactVisible_bounds {u : Nat} (h : tactVisible u = true) :
    rowOf u < screenLines ∧ colOf u + 1 < screenWidth ∧ firstVisibleLine ≤ lineOf u ∧
      horizontalBlankingTime ≤ lineTactOf u := by
  simp only [tactVisible, Bool.and_eq_true, decide_eq_true_eq] at h
  simp only [rowOf, colOf, screenWidth]
  omega

theorem Ula.paint_wf {m : Memory} {v : Ula} (u : Nat) (h : v.buffer.wf = true) : (v.paint m u).buffer.wf = true := by
  unfold Ula.paint
  split
  · rename_i hv
    obtain ⟨hr, hc, -, -⟩ := tactVisible_bounds hv
    exact PixelBuffer.wf_store _ hr hc (PixelBuffer.wf_store _ hr (by omega) (by simpa using h))
  · exact h

theorem Ula.paintMany_same (m : Memory) (count first : Nat) (v : Ula) :
    SameButPixels v (Ula.paintMany m count first v) := by
  induction count generalizing first v with
  | zero => exact .refl v
  | succ n ih => exact (Ula.paint_same m v first).trans (ih _ _)

theorem Ula.paintMany_wf {m : Memory} (count first : Nat) {v : Ula} (h : v.buffer.wf = true) :
    (Ula.paintMany m count first v).buffer.wf = true := by
  induction count generalizing first v with
  | zero => exact h
  | succ n ih => exact ih _ (Ula.paint_wf _ h)

/-! ### Rendering -/

/-- The last tact rendered after `RenderTo(f)` (R453). -/
@[simp] theorem Ula.renderTo_last (m : Memory) (f : Int) (v : Ula) :
    (v.renderTo m f).lastRenderedTact = max v.lastRenderedTact (min f (frameTacts - 1 : Nat)) := rfl

@[simp] theorem Ula.renderTo_frameStart (m : Memory) (f : Int) (v : Ula) :
    (v.renderTo m f).frameStart = v.frameStart := (Ula.paintMany_same m _ _ v).frameStart
@[simp] theorem Ula.renderTo_frameCount (m : Memory) (f : Int) (v : Ula) :
    (v.renderTo m f).frameCount = v.frameCount := (Ula.paintMany_same m _ _ v).frameCount
@[simp] theorem Ula.renderTo_overflow (m : Memory) (f : Int) (v : Ula) :
    (v.renderTo m f).overflow = v.overflow := (Ula.paintMany_same m _ _ v).overflow
@[simp] theorem Ula.renderTo_borderColour (m : Memory) (f : Int) (v : Ula) :
    (v.renderTo m f).borderColour = v.borderColour := (Ula.paintMany_same m _ _ v).borderColour
@[simp] theorem Ula.renderTo_flashPhase (m : Memory) (f : Int) (v : Ula) :
    (v.renderTo m f).flashPhase = v.flashPhase := (Ula.paintMany_same m _ _ v).flashPhase
@[simp] theorem Ula.renderTo_earOut (m : Memory) (f : Int) (v : Ula) :
    (v.renderTo m f).earOut = v.earOut := (Ula.paintMany_same m _ _ v).earOut
@[simp] theorem Ula.renderTo_micOut (m : Memory) (f : Int) (v : Ula) :
    (v.renderTo m f).micOut = v.micOut := (Ula.paintMany_same m _ _ v).micOut

theorem Ula.renderTo_wf {m : Memory} (f : Int) {v : Ula} (h : v.buffer.wf = true) :
    (v.renderTo m f).buffer.wf = true := Ula.paintMany_wf _ _ h

/-! ### Frame completion -/

/-- The invariant part of `CompleteFrames`: what the ULA is after `k` turns of its loop. -/
structure AfterFrames (v w : Ula) (k : Nat) : Prop where
  frameStart : w.frameStart = v.frameStart + k * frameTacts
  frameCount : w.frameCount = v.frameCount + k
  borderColour : w.borderColour = v.borderColour
  earOut : w.earOut = v.earOut
  micOut : w.micOut = v.micOut
  flashPhase : w.flashPhase = if k = 0 then v.flashPhase else flashPhaseAfter (v.frameCount + k)
  lastRenderedTact : w.lastRenderedTact = if k = 0 then v.lastRenderedTact else -1
  wf : v.buffer.wf = true → w.buffer.wf = true

theorem Ula.completeFramesLoop_after (m : Memory) (t : Nat) (fuel : Nat) (v : Ula)
    (h : fuel ≤ (t - v.frameStart) / frameTacts) : AfterFrames v (v.completeFramesLoop m t fuel) fuel := by
  induction fuel generalizing v with
  | zero => exact ⟨by simp [Ula.completeFramesLoop], rfl, rfl, rfl, rfl, rfl, rfl, id⟩
  | succ n ih =>
    have hlt : v.frameStart + frameTacts ≤ t := by
      have h1 : (n + 1) * frameTacts ≤ t - v.frameStart := (Nat.le_div_iff_mul_le (by decide)).mp h
      have h2 : 0 < frameTacts := by decide
      rw [Nat.succ_mul] at h1
      omega
    have hn : n ≤ (t - (v.completeFrame m t).frameStart) / frameTacts := by
      have h1 : (n + 1) * frameTacts ≤ t - v.frameStart := (Nat.le_div_iff_mul_le (by decide)).mp h
      apply (Nat.le_div_iff_mul_le (by decide)).mpr
      simp only [Ula.completeFrame, Ula.renderTo_frameStart]
      rw [Nat.succ_mul] at h1
      omega
    have r := ih (v.completeFrame m t) hn
    simp only [Ula.completeFramesLoop, if_pos hlt]
    constructor
    · rw [r.frameStart]
      simp only [Ula.completeFrame, Ula.renderTo_frameStart, Nat.succ_mul]
      omega
    · rw [r.frameCount]
      simp only [Ula.completeFrame, Ula.renderTo_frameCount]
      omega
    · rw [r.borderColour]
      simp [Ula.completeFrame]
    · rw [r.earOut]
      simp [Ula.completeFrame]
    · rw [r.micOut]
      simp [Ula.completeFrame]
    · rw [r.flashPhase]
      by_cases h0 : n = 0
      · simp [h0, Ula.completeFrame]
      · simp only [h0, if_false, Nat.succ_ne_zero, Ula.completeFrame, Ula.renderTo_frameCount]
        congr 1
        omega
    · rw [r.lastRenderedTact]
      by_cases h0 : n = 0 <;> simp [h0, Ula.completeFrame]
    · intro hw
      exact r.wf (Ula.renderTo_wf _ hw)

/-- What `CompleteFrames(t)` leaves (R443): it makes `(t - frameStart) / FrameTacts` turns. -/
theorem Ula.completeFrames_after (m : Memory) (t : Nat) (v : Ula) :
    AfterFrames v (v.completeFrames m t) ((t - v.frameStart) / frameTacts) :=
  Ula.completeFramesLoop_after m t _ v (Nat.le_refl _)

/-- After `CompleteFrames(t)` the frame holds `t` (R442). -/
theorem Ula.completeFrames_holds {m : Memory} {t : Nat} {v : Ula} (h : v.frameStart ≤ t) :
    (v.completeFrames m t).frameStart ≤ t ∧ t < (v.completeFrames m t).frameStart + frameTacts := by
  rw [(Ula.completeFrames_after m t v).frameStart]
  have h1 := Nat.div_add_mod (t - v.frameStart) frameTacts
  have h2 : (t - v.frameStart) % frameTacts < frameTacts := Nat.mod_lt _ (by decide)
  rw [Nat.mul_comm] at h1
  omega

/-- Within the frame `CompleteFrames(t)` does nothing. -/
theorem Ula.completeFrames_of_lt {m : Memory} {t : Nat} {v : Ula} (h : t < v.frameStart + frameTacts) :
    v.completeFrames m t = v := by
  have h0 : 0 < frameTacts := by decide
  unfold Ula.completeFrames
  rw [Nat.div_eq_of_lt (by omega)]
  rfl

/-! ### The invariant parts of the ULA's state -/

/-- The ULA's time is right at the tact `t`, as `State.ulaTimed` says it, but for the upper bound of the frame. -/
structure UlaTime (v : Ula) (t : Nat) : Prop where
  start : v.frameStart = v.frameCount * frameTacts
  started : v.frameStart ≤ t
  flash : v.flashPhase = flashPhaseAfter v.frameCount
  lastLow : -1 ≤ v.lastRenderedTact
  lastHigh : v.lastRenderedTact ≤ (t : Int) - v.frameStart

theorem UlaTime.mono {v : Ula} {t t' : Nat} (h : UlaTime v t) (ht : t ≤ t') : UlaTime v t' :=
  ⟨h.start, le_trans h.started ht, h.flash, h.lastLow, by have := h.lastHigh; omega⟩

theorem UlaTime.timeOk {v : Ula} {t : Nat} (h : UlaTime v t) : v.timeOk t = true := by
  have h1 := h.started
  have h2 := h.lastHigh
  simp only [Ula.timeOk, Bool.and_eq_true, decide_eq_true_eq]
  exact ⟨h1, by omega⟩

theorem UlaTime.completeFrames {v : Ula} {t : Nat} (m : Memory) (h : UlaTime v t) : UlaTime (v.completeFrames m t) t := by
  have a := Ula.completeFrames_after m t v
  have b := Ula.completeFrames_holds (m := m) h.started
  refine ⟨?_, b.1, ?_, ?_, ?_⟩
  · rw [a.frameStart, a.frameCount, h.start, Nat.add_mul]
  · rw [a.flashPhase, a.frameCount, h.flash]
    split
    · rename_i h0
      rw [h0, Nat.add_zero]
    · rfl
  · rw [a.lastRenderedTact]
    split
    · exact h.lastLow
    · omega
  · rw [a.lastRenderedTact]
    split
    · rename_i h0
      rw [a.frameStart, h0]
      have := h.lastHigh
      omega
    · omega

theorem UlaTime.renderTo {v : Ula} {t : Nat} {f : Int} (m : Memory) (h : UlaTime v t) (hf : f ≤ (t : Int) - v.frameStart) :
    UlaTime (v.renderTo m f) t := by
  refine ⟨by simpa using h.start, by simpa using h.started, by simpa using h.flash, ?_, ?_⟩
  · have := h.lastLow
    simp only [Ula.renderTo_last]
    omega
  · have := h.lastHigh
    simp only [Ula.renderTo_last, Ula.renderTo_frameStart]
    omega

/-- A ULA port write at `t` keeps the ULA's time. -/
theorem UlaTime.writePort {v : Ula} {t : Nat} (m : Memory) (x : Byte) (h : UlaTime v t) : UlaTime (v.writePort m t x) t := by
  have c := h.completeFrames m
  have r := c.renderTo (f := (t : Int) - (v.completeFrames m t).frameStart - 1) m (by omega)
  exact ⟨r.start, r.started, r.flash, r.lastLow, r.lastHigh⟩

/-- The catch-up after a step that ends at `t` keeps the ULA's time, and the frame holds `t`. -/
theorem UlaTime.catchUp {v : Ula} {t : Nat} (m : Memory) (h : UlaTime v t) :
    UlaTime (v.catchUp m t) t ∧ t < (v.catchUp m t).frameStart + frameTacts := by
  have c := h.completeFrames m
  have b := Ula.completeFrames_holds (m := m) h.started
  refine ⟨c.renderTo m (Int.le_refl _), ?_⟩
  unfold Ula.catchUp
  simpa using b.2

theorem Ula.writePort_wf {v : Ula} (m : Memory) (t : Nat) (x : Byte) (h : v.buffer.wf = true) :
    (v.writePort m t x).buffer.wf = true := Ula.renderTo_wf _ ((Ula.completeFrames_after m t v).wf h)

theorem Ula.catchUp_wf {v : Ula} (m : Memory) (t : Nat) (h : v.buffer.wf = true) : (v.catchUp m t).buffer.wf = true :=
  Ula.renderTo_wf _ ((Ula.completeFrames_after m t v).wf h)

end Sys2Proof.Machine
end

