-- ==== Sys2Proof/Tests/Slice0.lean ====
section
/-! SUPPORT. Tests: ill-formed terms, words written out from the spec's encodings, one step of each instruction on a small
state with the results of 95_test_vectors.md or of a hand calculation from a rule, and for every obligation with
hypotheses a witness that they can be met. -/

namespace Sys2Proof.Tests

open Sys2Proof.Machine

/-! ### Ill-formed terms, one for each check of `Instr.wellFormed` -/

theorem test_ldXyRR_needs_a_half : Instr.wellFormed (.ldXyRR .ix .b .c) = false := by decide

theorem test_retn_is_not_ed_4d : Instr.wellFormed (.retn 1) = false := by decide

theorem test_block_opcode_is_no_nop : Instr.wellFormed (.nopEd2 0b110000) = false := by decide

theorem test_indexable_opcode_is_no_ignored_prefix : Instr.wellFormed (.prefixIgnored .ix (.incR .h)) = false := by decide

theorem test_ill_formed_term_is_refused :
    exec (.prefixIgnored .ix .incMemHl) State.reset = .refused .illFormedInstruction := by
  rfl

/-! ### Words written out bit by bit from the encoding column of the spec (30_encoding.md R117 to R129) -/

theorem test_word_ld_r_r : decodeBytes [0b01_111_010#8] = .ok (.ldRR .a .d) := by rfl

theorem test_word_ld_xyh_n : decodeBytes [0xFD, 0b00_100_110#8, 0x9C] = .ok (.ldXyHalfN .iy .hi 0x9C) := by rfl

theorem test_word_ld_mem_nn_rp : decodeBytes [0xED, 0b01_01_0011#8, 0xFE, 0xCA] = .ok (.ldMemNnRp .de 0xCAFE) := by rfl

theorem test_word_push_af : decodeBytes [0b11_11_0101#8] = .ok (.pushQq .af) := by rfl

theorem test_word_lddr : decodeBytes [0xED, 0b101_11_000#8] = .ok .lddr := by rfl

theorem test_word_xor_l : decodeBytes [0b10_101_101#8] = .ok (.xorR .l) := by rfl

theorem test_word_cp_mem_xy : decodeBytes [0xDD, 0b10_111_110#8, 0x80] = .ok (.cpMemXy .ix 0x80) := by rfl

theorem test_word_daa : decodeBytes [0b00_100_111#8] = .ok .daa := by rfl

theorem test_word_neg_duplicate : decodeBytes [0xED, 0b01_110_100#8] = .ok (.neg 6) := by rfl

theorem test_word_add_xy_xy : decodeBytes [0xFD, 0b00_10_1001#8] = .ok (.addXyRp .iy .xy) := by rfl

theorem test_word_sra_mem_hl : decodeBytes [0xCB, 0b00_101_110#8] = .ok .sraMemHl := by rfl

theorem test_word_rl_mem_xy_copy : decodeBytes [0xDD, 0xCB, 0x7F, 0b00_010_111#8] = .ok (.rlMemXyR .ix 0x7F .a) := by rfl

theorem test_word_res_mem_hl : decodeBytes [0xCB, 0b10_011_110#8] = .ok (.resMemHl 3) := by rfl

theorem test_word_bit_duplicate : decodeBytes [0xFD, 0xCB, 0x01, 0b01_100_001#8] = .ok (.bitMemXyDup .iy 0x01 4 .c) := by
  rfl

theorem test_word_call_m : decodeBytes [0b11_111_100#8, 0x78, 0x56] = .ok (.callCcNn .m 0x5678) := by rfl

theorem test_word_jr_nc : decodeBytes [0b001_10_000#8, 0xFE] = .ok (.jrCc .nc 0xFE) := by rfl

theorem test_word_retn_duplicate : decodeBytes [0xED, 0b01_111_101#8] = .ok (.retn 7) := by rfl

theorem test_word_out_c_0 : decodeBytes [0xED, 0b01_110_001#8] = .ok .outC0 := by rfl

theorem test_word_in_h_c : decodeBytes [0xED, 0b01_100_000#8] = .ok (.inRC .h) := by rfl

theorem test_word_undefined_ed : decodeBytes [0xED, 0b10_111_111#8] = .ok (.nopEd2 0b111111) := by rfl

theorem test_word_prefix_then_prefix : decodeBytes [0b11_011_101#8, 0b11_111_101#8] = .ok (.prefixFdReplaces .ix) := by rfl

theorem test_word_ignored_prefix : decodeBytes [0xDD, 0b11_101_011#8] = .ok (.prefixIgnored .ix .exDeHl) := by rfl

/-- A word of the table has its first byte in the high bits (notes/assumptions/10.md). -/
theorem test_table_word : decodeTableWord 16 0xED4D = some .reti := by decide

/-! ### One step of an instruction (95_test_vectors.md, by section and row; R, PC and the tacts are those of the last CPU
step, the prefix bytes before it being steps of their own) -/

/-- Every register zero, PC in RAM. -/
def zero : Cpu :=
  { Cpu.reset with
    a := 0, f := 0, b := 0, c := 0, d := 0, e := 0, h := 0, l := 0, a' := 0, f' := 0, b' := 0, c' := 0, d' := 0
    e' := 0, h' := 0, l' := 0, ix := 0, iy := 0, sp := 0, pc := 0x8000 }

/-- A machine with a CPU and a memory of the test's. -/
def start (c : Cpu) (m : Memory) : State := { State.reset with cpu := c, mem := m }

/-- The bytes decode to an instruction that ends in a state of which `P` holds. -/
def runs (bytes : List Byte) (c : Cpu) (m : Memory) (P : State → Prop) [DecidablePred P] : Bool :=
  match decodeBytes bytes with
  | .ok i =>
    match exec i (start c m) with
    | .next t => decide (P t)
    | _ => false
  | .error _ => false

/-- 2.1 row 1. -/
theorem test_ld_a_b :
    runs [0x78] { zero with b := 0x5a } [] fun t => t.cpu.a = 0x5a ∧ t.cpu.tacts = 4 := by
  decide

/-- 2.1 row 3. -/
theorem test_ld_a_mem_ix_1 :
    runs [0xDD, 0x7E, 0xFF] { zero with ix := 0x4001 } [(0x4000, 0x99)] fun t => t.cpu.a = 0x99 ∧
      t.cpu.memptr = 0x4000 ∧ t.cpu.tacts = 15 := by
  decide

/-- 2.1 row 5. -/
theorem test_ld_h_mem_ix_1_the_real_h_not_ixh :
    runs [0xDD, 0x66, 0x01] { zero with ix := 0x4000 } [(0x4001, 0xC3)] fun t => t.cpu.h = 0xc3 ∧
      t.cpu.memptr = 0x4001 ∧ t.cpu.tacts = 15 := by
  decide

/-- 2.1 row 6. -/
theorem test_ld_ixh_77_mem_undocumented :
    runs [0xDD, 0x26, 0x77] { zero with ix := 0x1234 } [] fun t => t.cpu.ix = 0x7734 ∧ t.cpu.tacts = 7 := by
  decide

/-- 2.1 row 7. -/
theorem test_ld_ixl_ixh_mem_undocumented :
    runs [0xDD, 0x6C] { zero with ix := 0x1234 } [] fun t => t.cpu.ix = 0x1212 ∧ t.cpu.tacts = 4 := by
  decide

/-- 2.1 row 8. -/
theorem test_ld_hl_mem_ffff_wraps_to_0000 :
    runs [0x2A, 0xFF, 0xFF] zero [(0x0, 0x12), (0xFFFF, 0x34)] fun t => t.cpu.h = 0x12 ∧ t.cpu.l = 0x34 ∧
      t.cpu.tacts = 16 := by
  decide

/-- 2.1 row 9. -/
theorem test_ld_mem_ffff_a :
    runs [0x32, 0xFF, 0xFF] { zero with a := 0x55 } [] fun t => t.cpu.memptr = 0x5500 ∧ t.mem.read 0xFFFF = 0x55 ∧
      t.cpu.tacts = 13 := by
  decide

/-- 2.1 row 10. -/
theorem test_ld_mem_4000_bc :
    runs [0xED, 0x43, 0x00, 0x40] { zero with b := 0xbe, c := 0xef } [] fun t => t.cpu.memptr = 0x4001 ∧
      t.mem.read 0x4000 = 0xEF ∧ t.mem.read 0x4001 = 0xBE ∧ t.cpu.tacts = 16 := by
  decide

/-- 2.1 row 11. -/
theorem test_ld_mem_hl_a_into_rom_dropped :
    runs [0x77] { zero with h := 0x10, l := 0x0, a := 0x55 } [] fun t => t.cpu.tacts = 7 ∧ t.mem.read 0x1000 = 0 := by
  decide

/-- 2.1 row 12. -/
theorem test_push_bc_with_sp_0_wraps :
    runs [0xC5] { zero with b := 0x12, c := 0x34 } [] fun t => t.cpu.sp = 0xfffe ∧ t.mem.read 0xFFFE = 0x34 ∧
      t.mem.read 0xFFFF = 0x12 ∧ t.cpu.tacts = 11 := by
  decide

/-- 2.1 row 13. -/
theorem test_pop_af :
    runs [0xF1] { zero with sp := 0xfffe } [(0xFFFE, 0xD7), (0xFFFF, 0x12)] fun t => t.cpu.sp = 0x0 ∧
      t.cpu.a = 0x12 ∧ t.cpu.f = 0xd7 ∧ t.cpu.tacts = 10 := by
  decide

/-- 2.1 row 14. -/
theorem test_ex_de_hl :
    runs [0xEB] { zero with d := 0x11, e := 0x11, h := 0x22, l := 0x22 } [] fun t => t.cpu.d = 0x22 ∧
      t.cpu.e = 0x22 ∧ t.cpu.h = 0x11 ∧ t.cpu.l = 0x11 ∧ t.cpu.tacts = 4 := by
  decide

/-- 2.1 row 15. -/
theorem test_ex_af_af_shadow :
    runs [0x08] { zero with a := 0x12, f := 0x34, a' := 0x56, f' := 0x78 } [] fun t => t.cpu.a = 0x56 ∧
      t.cpu.f = 0x78 ∧ t.cpu.a' = 0x12 ∧ t.cpu.f' = 0x34 ∧ t.cpu.tacts = 4 := by
  decide

/-- 2.1 row 16. -/
theorem test_exx :
    runs [0xD9] 
      { zero with
        b := 0x0, c := 0x1, d := 0x0, e := 0x2, h := 0x0, l := 0x3, b' := 0x0, c' := 0x4, d' := 0x0
        e' := 0x5, h' := 0x0, l' := 0x6 } [] fun t => t.cpu.c = 0x4 ∧ t.cpu.e = 0x5 ∧ t.cpu.l = 0x6 ∧
      t.cpu.c' = 0x1 ∧ t.cpu.e' = 0x2 ∧ t.cpu.l' = 0x3 ∧ t.cpu.tacts = 4 := by
  decide

/-- 2.1 row 17. -/
theorem test_ex_mem_sp_hl :
    runs [0xE3] { zero with sp := 0x9000, h := 0xab, l := 0xcd } [(0x9000, 0x34), (0x9001, 0x12)]
      fun t => t.cpu.h = 0x12 ∧ t.cpu.l = 0x34 ∧ t.cpu.memptr = 0x1234 ∧ t.mem.read 0x9000 = 0xCD ∧
      t.mem.read 0x9001 = 0xAB ∧ t.cpu.tacts = 19 := by
  decide

/-- 2.1 row 19. -/
theorem test_ld_a_i_with_i_0_iff2_false :
    runs [0xED, 0x57] { zero with f := 0x1 } [] fun t => t.cpu.f = 0x41 ∧ t.cpu.tacts = 5 := by
  decide

/-- 2.1 row 21. -/
theorem test_ld_a_r_bit_7_of_r_kept :
    runs [0xED, 0x5F] { zero with r := 0x81 } [] fun t => t.cpu.a = 0x81 ∧ t.cpu.f = 0x80 ∧ t.cpu.tacts = 5 := by
  decide

/-- 2.1 row 22. -/
theorem test_ld_i_a :
    runs [0xED, 0x47] { zero with a := 0x3f } [] fun t => t.cpu.i = 0x3f ∧ t.cpu.tacts = 5 := by
  decide

/-- 2.1 row 23. -/
theorem test_ld_r_a :
    runs [0xED, 0x4F] { zero with a := 0x81 } [] fun t => t.cpu.r = 0x81 ∧ t.cpu.tacts = 5 := by
  decide

/-- 2.1 row 24. -/
theorem test_ld_sp_hl :
    runs [0xF9] { zero with h := 0x43, l := 0x21 } [] fun t => t.cpu.sp = 0x4321 ∧ t.cpu.tacts = 6 := by
  decide

/-- 2.1 row 25. -/
theorem test_ldi_bc_1_to_0_pv_0 :
    runs [0xED, 0xA0] 
      { zero with
        h := 0x40, l := 0x0, d := 0x50, e := 0x0, b := 0x0, c := 0x1, a := 0x20 } [(0x4000, 0x8)]
      fun t => t.cpu.l = 0x1 ∧ t.cpu.e = 0x1 ∧ t.cpu.c = 0x0 ∧ t.cpu.f = 0x8 ∧ t.mem.read 0x5000 = 0x8 ∧
      t.cpu.tacts = 12 := by
  decide

/-- 2.1 row 27. -/
theorem test_ldd :
    runs [0xED, 0xA8] { zero with h := 0x40, l := 0x1, d := 0x50, e := 0x1, b := 0x0, c := 0x1 } [(0x4001,
      0x77)] fun t => t.cpu.l = 0x0 ∧ t.cpu.e = 0x0 ∧ t.cpu.c = 0x0 ∧ t.cpu.f = 0x20 ∧ t.mem.read 0x5001 = 0x77 ∧
      t.cpu.tacts = 12 := by
  decide

/-- 2.1 row 28. -/
theorem test_ldir_with_bc_0_one_iteration_65535_left :
    runs [0xED, 0xB0] 
      { zero with
        h := 0x40, l := 0x0, d := 0x50, e := 0x0, b := 0x0, c := 0x0, pc := 0x8002 } [(0x4000, 0xAB)]
      fun t => t.cpu.l = 0x1 ∧ t.cpu.e = 0x1 ∧ t.cpu.b = 0xff ∧ t.cpu.c = 0xff ∧ t.cpu.f = 0x2c ∧
      t.cpu.memptr = 0x8001 ∧ t.cpu.pc = 0x8000 ∧ t.mem.read 0x5000 = 0xAB ∧ t.cpu.tacts = 17 := by
  decide

/-- 2.1 row 31. -/
theorem test_cpi_match_bc_1_to_0 :
    runs [0xED, 0xA1] { zero with a := 0x11, h := 0x40, l := 0x0, b := 0x0, c := 0x1 } [(0x4000, 0x11)]
      fun t => t.cpu.l = 0x1 ∧ t.cpu.c = 0x0 ∧ t.cpu.f = 0x42 ∧ t.cpu.memptr = 0x1 ∧ t.cpu.tacts = 12 := by
  decide

/-- 2.1 row 32. -/
theorem test_cpd_no_match :
    runs [0xED, 0xA9] { zero with a := 0x10, h := 0x40, l := 0x0, b := 0x0, c := 0x5 } [(0x4000, 0x20)]
      fun t => t.cpu.h = 0x3f ∧ t.cpu.l = 0xff ∧ t.cpu.c = 0x4 ∧ t.cpu.f = 0x86 ∧ t.cpu.memptr = 0xffff ∧
      t.cpu.tacts = 12 := by
  decide

/-- 2.2 row 1. -/
theorem test_add_a_b_signed_overflow :
    runs [0x80] { zero with a := 0x7f, b := 0x1 } [] fun t => t.cpu.a = 0x80 ∧ t.cpu.f = 0x94 ∧ t.cpu.tacts = 4 := by
  decide

/-- 2.2 row 2. -/
theorem test_add_a_1_result_zero_carry :
    runs [0xC6, 0x01] { zero with a := 0xff } [] fun t => t.cpu.a = 0x0 ∧ t.cpu.f = 0x51 ∧ t.cpu.tacts = 7 := by
  decide

/-- 2.2 row 4. -/
theorem test_adc_a_b_with_carry_in :
    runs [0x88] { zero with a := 0xf, b := 0x0, f := 0x1 } [] fun t => t.cpu.a = 0x10 ∧ t.cpu.f = 0x10 ∧
      t.cpu.tacts = 4 := by
  decide

/-- 2.2 row 5. -/
theorem test_adc_a_ff_with_carry_in :
    runs [0xCE, 0xFF] { zero with a := 0x1, f := 0x1 } [] fun t => t.cpu.f = 0x11 ∧ t.cpu.tacts = 7 := by
  decide

/-- 2.2 row 6. -/
theorem test_sub_b_equal :
    runs [0x90] { zero with a := 0x42, b := 0x42 } [] fun t => t.cpu.a = 0x0 ∧ t.cpu.f = 0x42 ∧ t.cpu.tacts = 4 := by
  decide

/-- 2.2 row 7. -/
theorem test_sub_1_borrow :
    runs [0xD6, 0x01] { zero with a := 0x0 } [] fun t => t.cpu.a = 0xff ∧ t.cpu.f = 0xbb ∧ t.cpu.tacts = 7 := by
  decide

/-- 2.2 row 8. -/
theorem test_sbc_a_0_with_carry_0_to_ff :
    runs [0xDE, 0x00] { zero with a := 0x0, f := 0x1 } [] fun t => t.cpu.a = 0xff ∧ t.cpu.f = 0xbb ∧
      t.cpu.tacts = 7 := by
  decide

/-- 2.2 row 10. -/
theorem test_and_3c :
    runs [0xE6, 0x3C] { zero with a := 0xf0 } [] fun t => t.cpu.a = 0x30 ∧ t.cpu.f = 0x34 ∧ t.cpu.tacts = 7 := by
  decide

/-- 2.2 row 11. -/
theorem test_xor_a_mem_same_register :
    runs [0xAF] { zero with a := 0x55, f := 0xff } [] fun t => t.cpu.a = 0x0 ∧ t.cpu.f = 0x44 ∧ t.cpu.tacts = 4 := by
  decide

/-- 2.2 row 12. -/
theorem test_or_mem_hl :
    runs [0xB6] { zero with a := 0x1, h := 0x40, l := 0x0 } [(0x4000, 0x80)] fun t => t.cpu.a = 0x81 ∧
      t.cpu.f = 0x84 ∧ t.cpu.tacts = 7 := by
  decide

/-- 2.2 row 13. -/
theorem test_cp_28_y_and_x_from_the_operand :
    runs [0xFE, 0x28] { zero with a := 0x10 } [] fun t => t.cpu.f = 0xbb ∧ t.cpu.tacts = 7 := by
  decide

/-- 2.2 row 15. -/
theorem test_inc_a_7f_to_80_mem_overflow :
    runs [0x3C] { zero with a := 0x7f } [] fun t => t.cpu.a = 0x80 ∧ t.cpu.f = 0x94 ∧ t.cpu.tacts = 4 := by
  decide

/-- 2.2 row 16. -/
theorem test_inc_b_ff_to_0_carry_kept :
    runs [0x04] { zero with b := 0xff, f := 0x1 } [] fun t => t.cpu.b = 0x0 ∧ t.cpu.f = 0x51 ∧ t.cpu.tacts = 4 := by
  decide

/-- 2.2 row 17. -/
theorem test_dec_c_80_to_7f_mem_overflow :
    runs [0x0D] { zero with c := 0x80 } [] fun t => t.cpu.c = 0x7f ∧ t.cpu.f = 0x3e ∧ t.cpu.tacts = 4 := by
  decide

/-- 2.2 row 20. -/
theorem test_inc_mem_hl :
    runs [0x34] { zero with h := 0x40, l := 0x0 } [(0x4000, 0xF)] fun t => t.cpu.f = 0x10 ∧
      t.mem.read 0x4000 = 0x10 ∧ t.cpu.tacts = 11 := by
  decide

/-- 2.2 row 21. -/
theorem test_dec_mem_ix_2 :
    runs [0xDD, 0x35, 0xFE] { zero with ix := 0x4002 } [(0x4000, 0x1)] fun t => t.cpu.f = 0x42 ∧
      t.cpu.memptr = 0x4000 ∧ t.mem.read 0x4000 = 0x0 ∧ t.cpu.tacts = 19 := by
  decide

/-- 2.2 row 22. -/
theorem test_neg_80 :
    runs [0xED, 0x44] { zero with a := 0x80 } [] fun t => t.cpu.f = 0x87 ∧ t.cpu.tacts = 4 := by
  decide

/-- 2.2 row 24. -/
theorem test_neg_mem_undocumented_ed_4c_1 :
    runs [0xED, 0x4C] { zero with a := 0x1 } [] fun t => t.cpu.a = 0xff ∧ t.cpu.f = 0xbb ∧ t.cpu.tacts = 4 := by
  decide

/-- 2.2 row 25. -/
theorem test_add_a_ixh_mem_undocumented :
    runs [0xDD, 0x84] { zero with a := 0x10, ix := 0x2000 } [] fun t => t.cpu.a = 0x30 ∧ t.cpu.f = 0x20 ∧
      t.cpu.tacts = 4 := by
  decide

/-- 2.2 row 26. -/
theorem test_sbc_a_iyl_mem_undocumented :
    runs [0xFD, 0x9D] { zero with a := 0x10, iy := 0x11 } [] fun t => t.cpu.a = 0xff ∧ t.cpu.f = 0xbb ∧
      t.cpu.tacts = 4 := by
  decide

/-- 2.2 row 27. -/
theorem test_add_a_mem_ix_5 :
    runs [0xDD, 0x86, 0x05] { zero with a := 0x10, ix := 0x4000 } [(0x4005, 0x20)] fun t => t.cpu.a = 0x30 ∧
      t.cpu.f = 0x20 ∧ t.cpu.memptr = 0x4005 ∧ t.cpu.tacts = 15 := by
  decide

/-- 2.3 row 1. -/
theorem test_daa_after_add_15_27_3c :
    runs [0x27] { zero with a := 0x3c, f := 0x0 } [] fun t => t.cpu.a = 0x42 ∧ t.cpu.f = 0x14 ∧ t.cpu.tacts = 4 := by
  decide

/-- 2.3 row 2. -/
theorem test_daa_9a :
    runs [0x27] { zero with a := 0x9a, f := 0x0 } [] fun t => t.cpu.a = 0x0 ∧ t.cpu.f = 0x55 ∧ t.cpu.tacts = 4 := by
  decide

/-- 2.3 row 3. -/
theorem test_daa_after_sub_mem_n_1_0f :
    runs [0x27] { zero with a := 0xf, f := 0x2 } [] fun t => t.cpu.a = 0x9 ∧ t.cpu.f = 0xe ∧ t.cpu.tacts = 4 := by
  decide

/-- 2.3 row 5. -/
theorem test_cpl :
    runs [0x2F] { zero with a := 0x5a } [] fun t => t.cpu.a = 0xa5 ∧ t.cpu.f = 0x32 ∧ t.cpu.tacts = 4 := by
  decide

/-- 2.3 row 6. -/
theorem test_ccf_with_c_1_h_takes_the_old_c :
    runs [0x3F] { zero with a := 0x0, f := 0x1 } [] fun t => t.cpu.f = 0x10 ∧ t.cpu.tacts = 4 := by
  decide

/-- 2.3 row 7. -/
theorem test_scf_y_and_x_from_a :
    runs [0x37] { zero with a := 0x28 } [] fun t => t.cpu.f = 0x29 ∧ t.cpu.tacts = 4 := by
  decide

/-- 2.3 row 8. -/
theorem test_nop :
    runs [0x00] zero [] fun t => t.cpu.tacts = 4 := by
  decide

/-- 2.3 row 9. -/
theorem test_halt :
    runs [0x76] zero [] fun t => t.cpu.halted = true ∧ t.cpu.tacts = 4 := by
  decide

/-- 2.3 row 10. -/
theorem test_di :
    runs [0xF3] { zero with iff1 := true, iff2 := true } [] fun t => t.cpu.iff1 = false ∧ t.cpu.iff2 = false ∧
      t.cpu.tacts = 4 := by
  decide

/-- 2.3 row 11. -/
theorem test_ei :
    runs [0xFB] zero [] fun t => t.cpu.iff1 = true ∧ t.cpu.iff2 = true ∧ t.cpu.eiBlock = true ∧ t.cpu.tacts = 4 := by
  decide

/-- 2.3 row 12. -/
theorem test_im_0 :
    runs [0xED, 0x46] { zero with im := .im2 } [] fun t => t.cpu.im = .im0 ∧ t.cpu.tacts = 4 := by
  decide

/-- 2.3 row 13. -/
theorem test_im_1 :
    runs [0xED, 0x56] zero [] fun t => t.cpu.im = .im1 ∧ t.cpu.tacts = 4 := by
  decide

/-- 2.3 row 14. -/
theorem test_im_2 :
    runs [0xED, 0x5E] zero [] fun t => t.cpu.im = .im2 ∧ t.cpu.tacts = 4 := by
  decide

/-- 2.3 row 16. -/
theorem test_im_0_1_mem_undocumented_im_0 :
    runs [0xED, 0x4E] { zero with im := .im2 } [] fun t => t.cpu.im = .im0 ∧ t.cpu.tacts = 4 := by
  decide

/-- 2.3 row 17. -/
theorem test_undefined_ed_00_an_8_tact_nop :
    runs [0xED, 0x00] zero [] fun t => t.cpu.tacts = 4 := by
  decide

/-- 2.3 row 19. -/
theorem test_dd_before_nop_the_prefix_is_a_4_tact_nop :
    runs [0xDD, 0x00] zero [] fun t => t.cpu.tacts = 4 := by
  decide

/-- 2.4 row 1. -/
theorem test_add_hl_bc_half_carry_from_bit_11 :
    runs [0x09] { zero with h := 0xf, l := 0xff, b := 0x0, c := 0x1 } [] fun t => t.cpu.h = 0x10 ∧ t.cpu.l = 0x0 ∧
      t.cpu.f = 0x10 ∧ t.cpu.memptr = 0x1000 ∧ t.cpu.tacts = 11 := by
  decide

/-- 2.4 row 2. -/
theorem test_add_hl_de_carry_s_z_pv_kept :
    runs [0x19] { zero with h := 0xff, l := 0xff, d := 0x0, e := 0x1, f := 0xc4 } [] fun t => t.cpu.h = 0x0 ∧
      t.cpu.l = 0x0 ∧ t.cpu.f = 0xd5 ∧ t.cpu.tacts = 11 := by
  decide

/-- 2.4 row 5. -/
theorem test_adc_hl_bc_7fff_0_1_mem_overflow :
    runs [0xED, 0x4A] { zero with h := 0x7f, l := 0xff, b := 0x0, c := 0x0, f := 0x1 } [] fun t => t.cpu.h = 0x80 ∧
      t.cpu.l = 0x0 ∧ t.cpu.f = 0x94 ∧ t.cpu.memptr = 0x8000 ∧ t.cpu.tacts = 11 := by
  decide

/-- 2.4 row 7. -/
theorem test_sbc_hl_de_0_1 :
    runs [0xED, 0x52] { zero with h := 0x0, l := 0x0, d := 0x0, e := 0x1 } [] fun t => t.cpu.h = 0xff ∧
      t.cpu.l = 0xff ∧ t.cpu.f = 0xbb ∧ t.cpu.memptr = 0x1 ∧ t.cpu.tacts = 11 := by
  decide

/-- 2.4 row 10. -/
theorem test_inc_bc_ffff_to_0_flags_kept :
    runs [0x03] { zero with b := 0xff, c := 0xff, f := 0xff } [] fun t => t.cpu.b = 0x0 ∧ t.cpu.c = 0x0 ∧
      t.cpu.tacts = 6 := by
  decide

/-- 2.4 row 11. -/
theorem test_dec_sp_0_to_ffff :
    runs [0x3B] zero [] fun t => t.cpu.sp = 0xffff ∧ t.cpu.tacts = 6 := by
  decide

/-- 2.4 row 12. -/
theorem test_add_ix_ix :
    runs [0xDD, 0x29] { zero with ix := 0x4000 } [] fun t => t.cpu.ix = 0x8000 ∧ t.cpu.memptr = 0x4001 ∧
      t.cpu.tacts = 11 := by
  decide

/-- 2.4 row 13. -/
theorem test_add_iy_de :
    runs [0xFD, 0x19] { zero with iy := 0x8000, d := 0x80, e := 0x0 } [] fun t => t.cpu.iy = 0x0 ∧ t.cpu.f = 0x1 ∧
      t.cpu.memptr = 0x8001 ∧ t.cpu.tacts = 11 := by
  decide

/-- 2.4 row 14. -/
theorem test_inc_ix :
    runs [0xDD, 0x23] { zero with ix := 0xffff } [] fun t => t.cpu.ix = 0x0 ∧ t.cpu.tacts = 6 := by
  decide

/-- 2.5 row 1. -/
theorem test_rlca :
    runs [0x07] { zero with a := 0x81, f := 0xc4 } [] fun t => t.cpu.a = 0x3 ∧ t.cpu.f = 0xc5 ∧ t.cpu.tacts = 4 := by
  decide

/-- 2.5 row 2. -/
theorem test_rrca :
    runs [0x0F] { zero with a := 0x1 } [] fun t => t.cpu.a = 0x80 ∧ t.cpu.f = 0x1 ∧ t.cpu.tacts = 4 := by
  decide

/-- 2.5 row 3. -/
theorem test_rla_carry_out_z_not_touched :
    runs [0x17] { zero with a := 0x80, f := 0x0 } [] fun t => t.cpu.a = 0x0 ∧ t.cpu.f = 0x1 ∧ t.cpu.tacts = 4 := by
  decide

/-- 2.5 row 4. -/
theorem test_rra_with_carry_in :
    runs [0x1F] { zero with a := 0x0, f := 0x1 } [] fun t => t.cpu.a = 0x80 ∧ t.cpu.f = 0x0 ∧ t.cpu.tacts = 4 := by
  decide

/-- 2.5 row 5. -/
theorem test_rlc_b :
    runs [0xCB, 0x00] { zero with b := 0x80 } [] fun t => t.cpu.b = 0x1 ∧ t.cpu.f = 0x1 ∧ t.cpu.tacts = 4 := by
  decide

/-- 2.5 row 7. -/
theorem test_rl_c_with_carry_in :
    runs [0xCB, 0x11] { zero with c := 0x80, f := 0x1 } [] fun t => t.cpu.c = 0x1 ∧ t.cpu.tacts = 4 := by
  decide

/-- 2.5 row 8. -/
theorem test_rr_d_to_zero :
    runs [0xCB, 0x1A] { zero with d := 0x1 } [] fun t => t.cpu.d = 0x0 ∧ t.cpu.f = 0x45 ∧ t.cpu.tacts = 4 := by
  decide

/-- 2.5 row 9. -/
theorem test_sla_e :
    runs [0xCB, 0x23] { zero with e := 0x80 } [] fun t => t.cpu.e = 0x0 ∧ t.cpu.f = 0x45 ∧ t.cpu.tacts = 4 := by
  decide

/-- 2.5 row 10. -/
theorem test_sra_h_sign_kept :
    runs [0xCB, 0x2C] { zero with h := 0x81 } [] fun t => t.cpu.h = 0xc0 ∧ t.cpu.f = 0x85 ∧ t.cpu.tacts = 4 := by
  decide

/-- 2.5 row 11. -/
theorem test_sll_l_mem_undocumented_bit_0_set :
    runs [0xCB, 0x35] { zero with l := 0x80 } [] fun t => t.cpu.l = 0x1 ∧ t.cpu.f = 0x1 ∧ t.cpu.tacts = 4 := by
  decide

/-- 2.5 row 13. -/
theorem test_rld :
    runs [0xED, 0x6F] { zero with a := 0x12, h := 0x40, l := 0x0 } [(0x4000, 0x34)] fun t => t.cpu.a = 0x13 ∧
      t.cpu.memptr = 0x4001 ∧ t.mem.read 0x4000 = 0x42 ∧ t.cpu.tacts = 14 := by
  decide

/-- 2.5 row 14. -/
theorem test_rrd :
    runs [0xED, 0x67] { zero with a := 0x12, h := 0x40, l := 0x0 } [(0x4000, 0x34)] fun t => t.cpu.a = 0x14 ∧
      t.cpu.f = 0x4 ∧ t.cpu.memptr = 0x4001 ∧ t.mem.read 0x4000 = 0x23 ∧ t.cpu.tacts = 14 := by
  decide

/-- 2.5 row 15. -/
theorem test_rlc_mem_ix_2 :
    runs [0xDD, 0xCB, 0x02, 0x06] { zero with ix := 0x4000 } [(0x4002, 0x81)] fun t => t.cpu.f = 0x5 ∧
      t.cpu.memptr = 0x4002 ∧ t.mem.read 0x4002 = 0x3 ∧ t.cpu.tacts = 15 := by
  decide

/-- 2.5 row 17. -/
theorem test_srl_mem_iy_1 :
    runs [0xFD, 0xCB, 0xFF, 0x3E] { zero with iy := 0x4001 } [(0x4000, 0x2)] fun t => t.cpu.memptr = 0x4000 ∧
      t.mem.read 0x4000 = 0x1 ∧ t.cpu.tacts = 15 := by
  decide

/-- 2.6 row 1. -/
theorem test_bit_7_a_set :
    runs [0xCB, 0x7F] { zero with a := 0x80 } [] fun t => t.cpu.f = 0x90 ∧ t.cpu.tacts = 4 := by
  decide

/-- 2.6 row 3. -/
theorem test_bit_3_a_y_and_x_from_the_operand :
    runs [0xCB, 0x5F] { zero with a := 0x28 } [] fun t => t.cpu.f = 0x38 ∧ t.cpu.tacts = 4 := by
  decide

/-- 2.6 row 4. -/
theorem test_bit_5_mem_hl_y_and_x_from_memptr_high_byte :
    runs [0xCB, 0x6E] { zero with h := 0x40, l := 0x0, memptr := 0x2800 } [(0x4000, 0x20)]
      fun t => t.cpu.f = 0x38 ∧ t.cpu.tacts = 8 := by
  decide

/-- 2.6 row 6. -/
theorem test_set_0_b_mem_sub017_8_tacts :
    runs [0xCB, 0xC0] { zero with b := 0x0 } [] fun t => t.cpu.b = 0x1 ∧ t.cpu.tacts = 4 := by
  decide

/-- 2.6 row 7. -/
theorem test_set_7_mem_hl_mem_sub017_15_tacts :
    runs [0xCB, 0xFE] { zero with h := 0x40, l := 0x0 } [(0x4000, 0x1)] fun t => t.mem.read 0x4000 = 0x81 ∧
      t.cpu.tacts = 11 := by
  decide

/-- 2.6 row 8. -/
theorem test_res_0_a :
    runs [0xCB, 0x87] { zero with a := 0xff } [] fun t => t.cpu.a = 0xfe ∧ t.cpu.tacts = 4 := by
  decide

/-- 2.7 row 1. -/
theorem test_jp_1234 :
    runs [0xC3, 0x34, 0x12] { zero with pc := 0x8003 } [] fun t => t.cpu.memptr = 0x1234 ∧ t.cpu.pc = 0x1234 ∧
      t.cpu.tacts = 10 := by
  decide

/-- 2.7 row 2. -/
theorem test_jp_nz_taken :
    runs [0xC2, 0x34, 0x12] { zero with f := 0x0, pc := 0x8003 } [] fun t => t.cpu.memptr = 0x1234 ∧
      t.cpu.pc = 0x1234 ∧ t.cpu.tacts = 10 := by
  decide

/-- 2.7 row 3. -/
theorem test_jp_c_not_taken :
    runs [0xDA, 0x34, 0x12] { zero with f := 0x0 } [] fun t => t.cpu.memptr = 0x1234 ∧ t.cpu.tacts = 10 := by
  decide

/-- 2.7 row 4. -/
theorem test_jr_127 :
    runs [0x18, 0x7F] { zero with pc := 0x8002 } [] fun t => t.cpu.memptr = 0x8081 ∧ t.cpu.pc = 0x8081 ∧
      t.cpu.tacts = 12 := by
  decide

/-- 2.7 row 8. -/
theorem test_jr_nz_not_taken :
    runs [0x20, 0x05] { zero with f := 0x40 } [] fun t => t.cpu.tacts = 7 := by
  decide

/-- 2.7 row 10. -/
theorem test_djnz_with_b_1_falls_through :
    runs [0x10, 0xFE] { zero with b := 0x1 } [] fun t => t.cpu.b = 0x0 ∧ t.cpu.tacts = 8 := by
  decide

/-- 2.7 row 12. -/
theorem test_call_1234 :
    runs [0xCD, 0x34, 0x12] { zero with sp := 0x9000, pc := 0x8003 } [] fun t => t.cpu.sp = 0x8ffe ∧
      t.cpu.memptr = 0x1234 ∧ t.cpu.pc = 0x1234 ∧ t.mem.read 0x8FFE = 0x3 ∧ t.mem.read 0x8FFF = 0x80 ∧
      t.cpu.tacts = 17 := by
  decide

/-- 2.7 row 13. -/
theorem test_call_z_not_taken :
    runs [0xCC, 0x34, 0x12] { zero with sp := 0x9000, f := 0x0, pc := 0x8003 } [] fun t => t.cpu.memptr = 0x1234 ∧
      t.cpu.tacts = 10 := by
  decide

/-- 2.7 row 14. -/
theorem test_call_p_taken :
    runs [0xF4, 0x34, 0x12] { zero with sp := 0x9000, f := 0x0, pc := 0x8003 } [] fun t => t.cpu.sp = 0x8ffe ∧
      t.cpu.memptr = 0x1234 ∧ t.cpu.pc = 0x1234 ∧ t.mem.read 0x8FFE = 0x3 ∧ t.mem.read 0x8FFF = 0x80 ∧
      t.cpu.tacts = 17 := by
  decide

/-- 2.7 row 15. -/
theorem test_ret :
    runs [0xC9] { zero with sp := 0x8ffe, pc := 0x8001 } [(0x8FFE, 0x34), (0x8FFF, 0x12)]
      fun t => t.cpu.sp = 0x9000 ∧ t.cpu.memptr = 0x1234 ∧ t.cpu.pc = 0x1234 ∧ t.cpu.tacts = 10 := by
  decide

/-- 2.7 row 16. -/
theorem test_ret_c_taken :
    runs [0xD8] { zero with sp := 0x8ffe, f := 0x1, pc := 0x8001 } [(0x8FFE, 0x34), (0x8FFF, 0x12)]
      fun t => t.cpu.sp = 0x9000 ∧ t.cpu.memptr = 0x1234 ∧ t.cpu.pc = 0x1234 ∧ t.cpu.tacts = 11 := by
  decide

/-- 2.7 row 17. -/
theorem test_ret_c_not_taken :
    runs [0xD8] { zero with sp := 0x8ffe } [(0x8FFE, 0x34), (0x8FFF, 0x12)] fun t => t.cpu.tacts = 5 := by
  decide

/-- 2.7 row 18. -/
theorem test_rst_28 :
    runs [0xEF] { zero with sp := 0x9000, pc := 0x8001 } [] fun t => t.cpu.sp = 0x8ffe ∧ t.cpu.memptr = 0x28 ∧
      t.cpu.pc = 0x28 ∧ t.mem.read 0x8FFE = 0x1 ∧ t.mem.read 0x8FFF = 0x80 ∧ t.cpu.tacts = 11 := by
  decide

/-- 2.7 row 19. -/
theorem test_jp_mem_hl :
    runs [0xE9] { zero with h := 0x43, l := 0x21, pc := 0x8001 } [] fun t => t.cpu.pc = 0x4321 ∧ t.cpu.tacts = 4 := by
  decide

/-- 2.7 row 20. -/
theorem test_jp_mem_ix :
    runs [0xDD, 0xE9] { zero with ix := 0x4321, pc := 0x8002 } [] fun t => t.cpu.pc = 0x4321 ∧ t.cpu.tacts = 4 := by
  decide

/-- 2.7 row 21. -/
theorem test_reti :
    runs [0xED, 0x4D] { zero with sp := 0x8ffe, iff2 := true, pc := 0x8002 } [(0x8FFE, 0x34), (0x8FFF,
      0x12)] fun t => t.cpu.sp = 0x9000 ∧ t.cpu.memptr = 0x1234 ∧ t.cpu.iff1 = true ∧ t.cpu.pc = 0x1234 ∧
      t.cpu.tacts = 10 := by
  decide

/-- 2.7 row 22. -/
theorem test_retn :
    runs [0xED, 0x45] { zero with sp := 0x8ffe, iff2 := true, pc := 0x8002 } [(0x8FFE, 0x34), (0x8FFF,
      0x12)] fun t => t.cpu.sp = 0x9000 ∧ t.cpu.memptr = 0x1234 ∧ t.cpu.iff1 = true ∧ t.cpu.pc = 0x1234 ∧
      t.cpu.tacts = 10 := by
  decide

/-- 2.8 row 1. -/
theorem test_in_a_mem_fe_port_a_n_flags_kept :
    runs [0xDB, 0xFE] { zero with a := 0x7f, f := 0xff } [] fun t => t.cpu.a = 0xbf ∧ t.cpu.memptr = 0x7fff ∧
      t.cpu.tacts = 11 := by
  decide

/-- 2.8 row 5. -/
theorem test_out_mem_fe_a :
    runs [0xD3, 0xFE] { zero with a := 0x7 } [] fun t => t.cpu.memptr = 0x7ff ∧ t.cpu.tacts = 11 := by
  decide

/-- 2.8 row 6. -/
theorem test_out_mem_c_a :
    runs [0xED, 0x79] { zero with b := 0x0, c := 0xfe, a := 0x10 } [] fun t => t.cpu.memptr = 0xff ∧
      t.cpu.tacts = 8 := by
  decide

/-- 2.8 row 7. -/
theorem test_out_mem_c_0_mem_undocumented :
    runs [0xED, 0x71] { zero with b := 0x0, c := 0xfe } [] fun t => t.cpu.memptr = 0xff ∧ t.cpu.tacts = 8 := by
  decide

/-- 2.8 row 11. -/
theorem test_outi_b_is_decremented_before_the_write :
    runs [0xED, 0xA3] { zero with b := 0x2, c := 0xfe, h := 0x40, l := 0x0 } [(0x4000, 0x7)]
      fun t => t.cpu.b = 0x1 ∧ t.cpu.l = 0x1 ∧ t.cpu.memptr = 0x1ff ∧ t.cpu.tacts = 12 := by
  decide

/-- 2.8 row 13. -/
theorem test_outd :
    runs [0xED, 0xAB] { zero with b := 0x1, c := 0xfe, h := 0x40, l := 0xff } [(0x40FF, 0x81)]
      fun t => t.cpu.b = 0x0 ∧ t.cpu.l = 0xfe ∧ t.cpu.f = 0x53 ∧ t.cpu.memptr = 0xfd ∧ t.cpu.tacts = 12 := by
  decide

/-- 2.8 row 14. -/
theorem test_otdr_one_iteration_b_1_to_0 :
    runs [0xED, 0xBB] { zero with b := 0x1, c := 0xfe, h := 0x40, l := 0x0 } [(0x4000, 0x81)]
      fun t => t.cpu.b = 0x0 ∧ t.cpu.h = 0x3f ∧ t.cpu.l = 0xff ∧ t.cpu.f = 0x57 ∧ t.cpu.memptr = 0xfd ∧
      t.cpu.tacts = 12 := by
  decide

/-! The rows of section 2.8 whose port answers a byte of the host's are tested with the floating bus, 0xFF (20_memory.md
R90); the flags are a hand calculation from 47_io.md R413, R415. -/

theorem test_in_a_c_floating_bus :
    runs [0xED, 0x78] { zero with b := 0x12, c := 0x35 } [] fun t => t.cpu.a = 0xFF ∧ t.cpu.f = 0xAC ∧
      t.cpu.memptr = 0x1236 ∧ t.cpu.tacts = 8 := by
  decide

theorem test_ini_b_1_to_0 :
    runs [0xED, 0xA2] { zero with b := 0x01, c := 0xFF, h := 0x40 } [] fun t => t.cpu.b = 0 ∧ t.cpu.l = 1 ∧
      t.cpu.f = 0x42 ∧ t.cpu.memptr = 0x0200 ∧ t.mem.read 0x4000 = 0xFF ∧ t.cpu.tacts = 12 := by
  decide

theorem test_ind_carry :
    runs [0xED, 0xAA] { zero with b := 0x81, c := 0x03, h := 0x40 } [] fun t => t.cpu.b = 0x80 ∧ t.cpu.h = 0x3F ∧
      t.cpu.f = 0x97 ∧ t.cpu.memptr = 0x8102 ∧ t.cpu.tacts = 12 := by
  decide

theorem test_inir_repeats :
    runs [0xED, 0xB2] { zero with b := 0x02, c := 0xFF, h := 0x40, pc := 0x8002 } [] fun t => t.cpu.pc = 0x8000 ∧
      t.cpu.b = 1 ∧ t.cpu.tacts = 17 := by
  decide

theorem test_indr_ends :
    runs [0xED, 0xBA] { zero with b := 0x01, c := 0xFF, h := 0x40, pc := 0x8002 } [] fun t => t.cpu.pc = 0x8002 ∧
      t.cpu.b = 0 ∧ t.cpu.tacts = 12 := by
  decide

/-! ### Whole steps (95_test_vectors.md 2.9 to 2.11, by row) -/

/-- The CPU after one step, where the step answers a next state. -/
def stepCpu (s : State) : Option Cpu :=
  match step s with
  | .next t => some t.cpu
  | _ => none

/-- A CPU with interrupts enabled, the stack at 0x9000. -/
def enabled : Cpu := { zero with sp := 0x9000, iff1 := true, iff2 := true }

/-- 2.9 row 1. -/
theorem test_im0_acceptance :
    (stepCpu (start enabled [])).map (fun c => (c.pc, c.tacts, c.iff1, c.iff2, c.r)) =
      some (0x8000, 6, false, false, 1) := by
  decide

/-- 2.9 row 2. -/
theorem test_im1_acceptance :
    (stepCpu (start { enabled with im := .im1 } [])).map (fun c => (c.pc, c.sp, c.memptr, c.tacts)) =
      some (0x0038, 0x8FFE, 0x0038, 13) := by
  decide

/-- 2.9 row 3. -/
theorem test_im2_acceptance :
    (stepCpu (start { enabled with im := .im2, i := 0x80 } [(0x80FF, 0x34), (0x8100, 0x12)])).map
      (fun c => (c.pc, c.memptr, c.tacts)) = some (0x1234, 0x1234, 19) := by
  decide

/-- 2.9 row 4. -/
theorem test_nmi_acceptance :
    (stepCpu (start { enabled with nmiPending := true } [])).map
      (fun c => (c.pc, c.iff1, c.iff2, c.nmiPending, c.tacts)) = some (0x0066, false, true, false, 11) := by
  decide

/-- 2.9 row 6, its second step: the instruction after EI runs first. -/
theorem test_ei_delay :
    (stepCpu (start { enabled with im := .im1, eiBlock := true } [])).map (fun c => (c.pc, c.eiBlock)) =
      some (0x8001, false) := by
  decide

/-- 2.9 row 10. -/
theorem test_nmi_breaks_halt :
    (stepCpu (start { zero with sp := 0x9000, halted := true, nmiPending := true } [])).map
      (fun c => (c.pc, c.halted, c.tacts)) = some (0x0066, false, 11) := by
  decide

/-- A halted cycle (60_exceptions.md R561). -/
theorem test_halted_cycle :
    (stepCpu (start { zero with halted := true, r := 0x7F } [])).map (fun c => (c.pc, c.r, c.tacts)) =
      some (0x8000, 0x00, 4) := by
  decide

/-- The prefix steps leave the prefix-mode state (30_encoding.md R113, R114). -/
theorem test_prefix_dd_then_cb :
    (stepCpu (start zero [(0x8000, 0xDD)])).map (fun c => (c.pfx, c.pc, c.r, c.tacts)) = some (.dd, 0x8001, 1, 4) ∧
      (stepCpu (start { zero with pfx := .dd } [(0x8000, 0xCB)])).map (fun c => (c.pfx, c.r)) = some (.ddcb, 1) ∧
      (stepCpu (start { zero with pfx := .ddcb } [(0x8001, 0x06)])).map (fun c => (c.pfx, c.pc, c.r)) =
        some (.none, 0x8002, 0) := by
  decide

/-- The word of the host is what the next step runs: EX AF,AF' out of reset (notes/assumptions/9.md). -/
theorem test_withFetchWord :
    (stepCpu ({ State.reset with cpu := { Cpu.reset with a := 1, a' := 2 } }.withFetchWord 8 0x08)).map
      (fun c => (c.a, c.a')) = some (2, 1) := by
  decide

/-- With two words and a prefix: LD IX,nn's operand bytes are zeros. -/
theorem test_withFetchWord_prefixed :
    (stepCpu (State.reset.withFetchWord 16 0xDD21)).map (fun c => (c.ix, c.pc, c.pfx)) = some (0, 4, .none) := by
  decide

/-- 2.10: the tact to pixel mapping at its edges (48_ula.md R448, R449). -/
theorem test_tact_to_pixel :
    tactVisible 3623 = false ∧ tactVisible 3624 = true ∧ rowOf 3624 = 0 ∧ colOf 3624 = 0 ∧ tactVisible 3799 = true ∧
      colOf 3799 = 350 ∧ tactVisible 3800 = false ∧ rowOf 14400 = 48 ∧ colOf 14400 = 48 := by
  decide

/-- 2.10: display file addresses (48_ula.md R451). -/
theorem test_display_file :
    pixelAddress 0 0 = 0x4000 ∧ pixelAddress 8 0 = 0x4001 ∧ pixelAddress 0 1 = 0x4100 ∧ pixelAddress 0 8 = 0x4020 ∧
      pixelAddress 0 64 = 0x4800 ∧ pixelAddress 255 191 = 0x57FF ∧ attrAddress 255 191 = 0x5AFF := by
  decide

/-- The interrupt line is high for 32 tacts (48_ula.md R446). -/
theorem test_int_pulse :
    (start { zero with tacts := 31 } []).intLine = true ∧ (start { zero with tacts := 32 } []).intLine = false := by
  decide

/-- 2.11 rows 3 to 9: pilot and sync of a header block. -/
theorem test_pilot_and_sync :
    (TzxBlock.standardSpeed 1000 [0x00, 0x03, 0xA5]).timeline.map
      (fun tl => (tl.at 0, tl.at 2168, tl.at 4336, tl.at 17480583, tl.at 17480584, tl.at 17481251)) =
    some (⟨true, .pilot, 0, 0x80⟩, ⟨false, .pilot, 0, 0x80⟩, ⟨true, .pilot, 0, 0x80⟩, ⟨true, .pilot, 0, 0x80⟩,
      ⟨false, .sync, 0, 0x80⟩, ⟨true, .sync, 0, 0x80⟩) := by
  decide

/-- 2.11: a text description and a standard speed block, read from bytes (49_tzx.md R492, R496, R505). -/
theorem test_read_content :
    readContent ([0x5A, 0x58, 0x54, 0x61, 0x70, 0x65, 0x21, 0x1A, 1, 20] ++ [0x30, 2, 0x4A, 0x53] ++
      [0x10, 0xE8, 0x03, 2, 0, 0xFF, 0x81]) =
    .ok [.textDescription [0x4A, 0x53], .standardSpeed 1000 [0xFF, 0x81]] := by
  rfl

/-- The layouts of 49_tzx.md R500, byte by byte: CSW recording and generalized data. -/
theorem test_decode_csw_and_generalized :
    decodeTapeBlock 0x18 [0x0B, 0, 0, 0, 0xE8, 0x03, 0x44, 0xAC, 0x00, 0x02, 0x05, 0, 0, 0, 0x7F] =
        .cswRecording (some ⟨1000, 44100, 2, 5⟩) [0x7F] ∧
      decodeTapeBlock 0x19 [0x0F, 0, 0, 0, 0xE8, 0x03, 0x01, 0x02, 0, 0, 3, 4, 5, 0, 0, 0, 6, 7, 0xAA] =
        .generalizedData (some ⟨1000, 513, 3, 4, 5, 6, 7⟩) [0xAA] := by
  decide

/-- 49_tzx.md R503 and R506: a select block with the offsets 2 and -1, an archive info with title and publisher. -/
theorem test_decode_select_and_archive :
    decodeTapeBlock 0x28 [0x09, 0, 2, 0x02, 0x00, 1, 0x41, 0xFF, 0xFF, 1, 0x42] =
        .selectBlock (some 2) [⟨2, [0x41]⟩, ⟨0xFFFF, [0x42]⟩] [] ∧
      decodeTapeBlock 0x32 [0x08, 0, 2, 0x00, 2, 0x4A, 0x53, 0x01, 1, 0x50] =
        .archiveInfo (some 2) [⟨.title, [0x4A, 0x53]⟩, ⟨.publisher, [0x50]⟩] [] := by
  decide

/-! ### Witnesses: the hypotheses of the obligations can be met, clause by clause and at the ends of the ranges -/

theorem test_witness_DecodeReadsBackEncode :
    Instr.wellFormed (.ldXyRR .iy .xyh .a) = true ∧ Instr.wellFormed (.retn 7) = true ∧
      Instr.wellFormed (.nopEd2 0b111111) = true ∧ Instr.wellFormed (.prefixIgnored .iy (.cpN 0xFF)) = true := by
  decide

theorem test_witness_EncodeReadsBackDecode :
    decode .fdcb [0xFF, 0x3E, 0x00] = .ok (.srlMemXy .iy 0xFF, [0x00]) ∧ decode .none [0x00] = .ok (.nop, []) := ⟨rfl, rfl⟩

/-- At an instruction boundary, and inside an instruction, where nothing is sampled even with an NMI pending. -/
theorem test_witness_StepRunsDecodedInstruction :
    State.reset.cpu.halted = false ∧ State.reset.quiet ∧ decode State.reset.cpu.pfx [0, 0, 0] = .ok (.nop, [0, 0]) ∧
      (start { zero with pfx := .dd, nmiPending := true } []).quiet ∧ decode .dd [0x21, 0x34, 0x12] =
        .ok (.ldXyNn .ix 0x1234, []) :=
  ⟨rfl, .inr ⟨rfl, by decide⟩, rfl, .inl (by decide), rfl⟩

theorem test_witness_IgnoredPrefixRunsUnprefixed :
    ¬IsIndexable 0xFB ∧ decode .none [0xFB] = .ok (.ei, []) ∧ Instr.ignoresPrefix .ei = true ∧
      (∀ n, Instr.ei ≠ .inAN n) ∧ (∀ n, Instr.ei ≠ .outNA n) :=
  ⟨by unfold IsIndexable; decide, rfl, rfl, nofun, nofun⟩

theorem test_witness_BlockTransferIteration :
    (start { zero with b := 0, c := 0 } []).bc ≠ 1 ∧ (start { zero with b := 0xFF, c := 0xFF } []).bc ≠ 1 ∧
      (start { zero with b := 0, c := 1 } []).bc = 1 := by
  decide

theorem test_witness_BlockSearchIteration :
    ((start { zero with c := 2, a := 1 } []).bc ≠ 1 ∧ (start { zero with c := 2, a := 1 } []).cpu.a ≠
      (start { zero with c := 2, a := 1 } []).mem.read 0) ∧ (start { zero with c := 1 } []).bc = 1 ∧
      (start { zero with c := 0 } []).cpu.a = (start { zero with c := 0 } []).mem.read 0 := by
  decide

theorem test_witness_DecimalAdjust :
    (zero.f.getLsbD 1 = false ∧ zero.f.getLsbD 4 = false ∧ zero.f.getLsbD 0 = false) ∧
      ((0x99 : Byte) = BitVec.ofNat 8 (99 / 10 * 16 + 99 % 10) ∧ (0 : Byte) = BitVec.ofNat 8 (0 / 10 * 16 + 0 % 10)) := by
  decide

theorem test_witness_AdcAndSbc16 :
    (start { zero with h := 0x7F, l := 0xFF } []).hl = 0x7FFF ∧ (start zero []).rp .sp = 0 ∧
      (zero.f.getLsbD 0).toNat = 0 := by
  decide

theorem test_witness_DigitRotates : ((start zero [(0, 0xAB)]).mem.read (start zero []).hl.toNat).toNat = 0xAB := by decide

theorem test_witness_BitTestForms :
    (start { zero with ix := 0x0001 } []).xy .ix + (0xFE : Byte).signExtend 16 = 0xFFFF := by
  decide

/-- Every condition is met by some F and not by some other. -/
theorem test_witness_CondTrue :
    (∀ cc, CondTrue 0x00 cc ∨ CondTrue 0xFF cc) ∧ (∀ cc, ¬CondTrue 0x00 cc ∨ ¬CondTrue 0xFF cc) := by
  constructor <;> intro cc <;> cases cc <;> unfold CondTrue <;> decide

theorem test_witness_JumpForms :
    zero.pc + (0x80 : Byte).signExtend 16 = 0x7F80 ∧ CondTrue 0x45 (jrCondOf .c) ∧ ¬CondTrue 0x44 (jrCondOf .c) ∧
      zero.b ≠ 1 ∧ { zero with b := 1 }.b = 1 := by
  unfold CondTrue jrCondOf
  decide

theorem test_witness_CallAndReturnForms :
    CondTrue 0x04 .pe ∧ ¬CondTrue 0x00 .pe ∧
      (start { zero with sp := 0xFFFF } [(0, 0x12), (0xFFFF, 0x34)]).mem.read 0 ++
        (start { zero with sp := 0xFFFF } [(0, 0x12), (0xFFFF, 0x34)]).mem.read 0xFFFF = 0x1234#16 := by
  unfold CondTrue
  decide

/-- A tape that plays: one standard speed block, started at tact 0. -/
def playing : Tape :=
  { Tape.empty with
    loaded := true, blocks := [.standardSpeed 0 [0xFF]], playing := true, currentBlockIndex := 0
    currentBlock := some (.standardSpeed 0 [0xFF]), blockPhase := .pilot }

/-- An odd port, the ULA without a tape, the ULA with a playing tape. -/
theorem test_witness_InputForms :
    PortAnswers (start zero []) 0x00FF 0xFF Tape.empty ∧ PortAnswers (start zero []) 0x7FFE 0xBF Tape.empty ∧
      PortAnswers { start zero [] with tape := playing } 0x00FE 0xFF playing :=
  ⟨⟨rfl, rfl⟩, ⟨by decide, false, ⟨rfl, rfl⟩, rfl, rfl, rfl, by decide⟩,
    ⟨by decide, true, by unfold EarAnswers; rfl, rfl, rfl, rfl, by decide⟩⟩

theorem test_witness_OutputForms :
    PortTakes (start zero []) 0x00FF 7 Ula.reset ∧
      PortTakes (start zero []) 0x00FE 7
        { (Ula.reset.completeFrames [] 0).renderTo [] (-1) with borderColour := 7, micOut := false, earOut := false } :=
  ⟨rfl, by decide, rfl⟩

theorem test_witness_BlockInputIteration :
    zero.b ≠ 1 ∧ { zero with b := 1 }.b = 1 ∧
      PortAnswers ((start { zero with c := 0xFF } []).charge 12 [portReadAt 0xFF, writeAt 0])
        (start { zero with c := 0xFF } []).bc 0xFF Tape.empty :=
  ⟨by decide, rfl, rfl, rfl⟩

theorem test_witness_BlockOutputIteration :
    (zero.b - 1) ++ { zero with c := 0xFF }.c = 0xFFFF#16 ∧
      PortTakes ((start zero []).charge 12 [readAt 0, portWriteAt 0xFFFF]) 0xFFFF 0 Ula.reset :=
  ⟨by decide, rfl⟩

theorem test_witness_ulaTimed : (start enabled []).ulaTimed ∧ State.reset.ulaTimed := by
  unfold State.ulaTimed
  decide

theorem test_witness_NmiAcceptance : enabled.pfx = .none ∧ { enabled with nmiPending := true }.nmiPending = true := by decide

/-- At both ends of the interrupt pulse and in every mode. -/
theorem test_witness_InterruptAcceptanceByMode :
    (start enabled []).interrupted ∧ (start { enabled with tacts := 31 } []).interrupted ∧
      (start { enabled with tacts := 31 } []).ulaTimed ∧ enabled.im = .im0 ∧ { enabled with im := .im1 }.im = .im1 ∧
      { enabled with im := .im2 }.im = .im2 := by
  unfold State.interrupted State.ulaTimed
  decide

theorem test_witness_EiDelaysOneInstruction :
    (∃ t, exec .ei State.reset = .next t) ∧
      (∃ t, step (start { enabled with eiBlock := true } []) = .next t) ∧ decode .none [0, 0, 0] = .ok (.nop, [0, 0]) ∧
      ∃ t, step (start { enabled with eiBlock := true, nmiPending := true } []) = .next t :=
  ⟨⟨_, rfl⟩, ⟨_, rfl⟩, rfl, ⟨_, rfl⟩⟩

theorem test_witness_HaltedCycleAddsFourTacts :
    (start { zero with halted := true } []).quiet ∧ (start { enabled with halted := true, tacts := 32 } []).quiet := by
  unfold State.quiet
  decide

theorem test_witness_HaltLeftAtThreeEventsOnly :
    (∃ t, step (start { zero with halted := true } []) = .next t) ∧
      (∃ t, step (start { enabled with halted := true } []) = .next t) ∧
      (start { enabled with halted := true } []).interrupted ∧
      (∃ t, step (start { zero with halted := true, nmiPending := true } []) = .next t) ∧
      (∃ t, exec .halt (start { zero with halted := true } []) = .next t) ∧
      (∃ t, hostAct .requestNmi (start { zero with halted := true } []) = .next t) :=
  ⟨⟨_, rfl⟩, ⟨_, rfl⟩, by unfold State.interrupted; decide, ⟨_, rfl⟩, ⟨_, rfl⟩, ⟨_, rfl⟩⟩

/-- A step that writes: LD (HL),A with HL the last byte of ROM. -/
theorem test_witness_RomNeverChanges :
    ∃ t, step (start { zero with h := 0x3F, l := 0xFF, a := 1 } [(0x8000, 0x77)]) = .next t :=
  ⟨_, rfl⟩

theorem test_witness_EveryStepAddsTacts :
    (∃ t, step State.reset = .next t) ∧ (∃ t, hostAct (.reset State.reset) State.reset = .next t) ∧
      ∃ t, hostAct (.loadTape []) State.reset = .next t :=
  ⟨⟨_, rfl⟩, ⟨_, rfl⟩, ⟨_, rfl⟩⟩

theorem test_witness_ShadowRegistersOnlyExchanged :
    behindPrefix (.prefixIgnored .ix .exDeHl) ≠ .exAfAf ∧ behindPrefix (.prefixIgnored .ix .exDeHl) ≠ .exx ∧
      ∃ t, exec (.prefixIgnored .ix .exDeHl) State.reset = .next t :=
  ⟨by decide, by decide, ⟨_, rfl⟩⟩

theorem test_witness_MemptrReadByBitHlOnly : ∀ b, Instr.cpi ≠ .bitMemHl b := nofun

/-- Every clause: the instruction named changes the register. -/
theorem test_witness_ControlRegistersAndTheirWriters :
    runs [0xED, 0x47] { zero with a := 1 } [] (fun t => t.cpu.i ≠ 0) ∧
      runs [0xED, 0x4F] { zero with a := 1 } [] (fun t => t.cpu.r ≠ 0) ∧ runs [0xED, 0x5E] zero [] (fun t => t.cpu.im ≠ .im0) ∧
      runs [0xFB] zero [] (fun t => t.cpu.iff1 ≠ false ∧ t.cpu.iff2 ≠ false ∧ t.cpu.eiBlock ≠ false) ∧
      runs [0xED, 0x45] { zero with iff2 := true } [] (fun t => t.cpu.iff1 ≠ false) ∧
      runs [0x76] zero [] (fun t => t.cpu.halted ≠ false) ∧ runs [0xCB] zero [] (fun t => t.cpu.pfx ≠ .none) := by
  decide

theorem test_witness_Inv : State.Inv State.reset ∧ (∃ t, step State.reset = .next t) ∧ State.Inv { start zero [] with tape := playing } := by
  refine ⟨?_, ⟨_, rfl⟩, ?_⟩
  · unfold State.Inv State.canonical State.ulaTimed State.tapeTimed State.controlled
    exact ⟨by decide, by decide, nofun, by decide⟩
  · unfold State.Inv State.canonical State.ulaTimed State.tapeTimed State.controlled
    exact ⟨by decide, by decide, fun _ => ⟨by decide, fun _ => ⟨_, rfl, rfl, rfl, by decide⟩⟩, by decide⟩

/-- Every host action answers a next state from reset; a draw with a canonical buffer. -/
theorem test_witness_HostActionsKeepInvariant :
    State.reset.ula.buffer.wf = true ∧ (∃ t, hostAct (.reset State.reset) State.reset = .next t) ∧
      (∃ t, hostAct .requestNmi State.reset = .next t) ∧ (∃ t, hostAct (.setKeyboard Keyboard.idle) State.reset = .next t) ∧
      (∃ t, hostAct (.loadTape []) State.reset = .next t) ∧ ∃ t, hostAct .startTape State.reset = .next t :=
  ⟨rfl, ⟨_, rfl⟩, ⟨_, rfl⟩, ⟨_, rfl⟩, ⟨_, rfl⟩, ⟨_, rfl⟩⟩

theorem test_witness_ResetWritesSpecValues :
    ∃ t, t = hostReset State.reset { start enabled [] with tape := playing } ∧ t.tape.playing = false :=
  ⟨_, rfl, rfl⟩

theorem test_witness_StepsAlwaysAnswer : ¬(State.reset.tape.loaded = true ∧ State.reset.tape.playing = true) := by decide

/-- A frame that goes on at its last tact, and one that ends. -/
theorem test_witness_FramesLoseNoTact :
    Ula.reset.frameStart = Ula.reset.frameCount * 69888 ∧ 69887 < Ula.reset.frameStart + 69888 ∧
      Ula.reset.frameStart + 69888 ≤ 69888 := by
  decide

/-- The first and the last visible tact, a border pixel of each, a display pixel. -/
theorem test_witness_BorderWriteNotRetroactive :
    (16 ≤ 3624 / 224 ∧ 3624 / 224 < 304 ∧ 40 ≤ 3624 % 224 ∧ 3624 % 224 < 216 ∧ ¬(48 ≤ 3624 / 224 - 16)) ∧
      (68087 / 224 < 304 ∧ 68087 % 224 = 215) ∧
      (Ula.reset.frameStart ≤ 3700 ∧ Ula.reset.lastRenderedTact < (3700 - Ula.reset.frameStart : Nat) ∧
        Ula.reset.lastRenderedTact < 3624 ∧ 3624 < 3700 - Ula.reset.frameStart ∧ 3700 - Ula.reset.frameStart ≤ 68087) := by
  decide

theorem test_witness_DisplayCells :
    31 < 32 ∧ 191 < 192 ∧ 7 < 8 ∧ 57308 = (64 + 191) * 224 + 64 + 4 * 31 ∧ pixelAddress 0 0 = pixelAddress 7 0 := by
  decide

theorem test_witness_PortsAnswer :
    (0x00FE : Word).getLsbD 0 = false ∧ (0x00FF : Word).getLsbD 0 = true ∧ Ula.reset.timeOk 0 = true ∧
      playing.getEarBit 0 = .next (true, playing) :=
  ⟨by decide, by decide, by decide, rfl⟩

/-- The first and last tact of the pilot and sync pulses of a header, a data and a turbo block; a pause. -/
theorem test_witness_PilotSyncPauseLevels :
    (∃ tl, (TzxBlock.standardSpeed 0 [0x7F]).timeline = some tl ∧ ¬∃ flag rest, [0x7F#8] = flag :: rest ∧ 0x80 ≤ flag.toNat) ∧
      (∃ tl, (TzxBlock.standardSpeed 0 [0x80]).timeline = some tl ∧ ∃ flag rest, [0x80#8] = flag :: rest ∧ 0x80 ≤ flag.toNat) ∧
      (∃ tl, (TzxBlock.turboSpeed 2168 667 735 855 1710 1 8 0 [0xFF]).timeline = some tl ∧ 1 * 2168 ≤ 2168 ∧
        2168 < 1 * 2168 + 667) ∧
      ∃ tl, (TzxBlock.pause 1).timeline = some tl ∧ tl.dataEnd ≤ 0 ∧ 0 < tl.duration ∧ tl.duration ≤ 3500 :=
  ⟨⟨_, rfl, by rintro ⟨flag, rest, h, h'⟩; cases h; exact absurd h' (by decide)⟩, ⟨_, rfl, _, _, rfl, by decide⟩,
    ⟨_, rfl, by decide, by decide⟩, ⟨_, rfl, by decide, by decide, by decide⟩⟩

theorem test_witness_DataBitLevels :
    ∃ tl, (TzxBlock.turboSpeed 2168 667 735 855 1710 1 1 0 [0x80]).timeline = some tl ∧ tl.bits = [true] ∧
      tl.bits[0]? = some true ∧ tl.syncEnd ≤ 3570 ∧ 3570 < tl.syncEnd + 2 * tl.bit1 ∧
      6989 < tl.syncEnd + 2 * tl.bit1 ∧ tl.bits.length = 1 :=
  ⟨_, rfl, rfl, rfl, by decide, by decide, by decide, rfl⟩

/-- 49_tzx.md R518's example, a header block with UsedBits 8: bit 14 starts at 17505926, the data end at 17533286. -/
theorem test_witness_DataBitLevels_standard :
    ∃ tl, (TzxBlock.standardSpeed 1000 [0x00, 0x03, 0xA5]).timeline = some tl ∧ tl.bits[14]? = some true ∧
      tl.syncEnd + ((tl.bits.take 14).map fun b => 2 * (if b = true then tl.bit1 else tl.bit0)).sum = 17505926 ∧
      17505926 + 2 * tl.bit1 = 17509346 ∧ tl.bits.length = 24 ∧ tl.dataEnd = 17533286 :=
  ⟨_, rfl, rfl, by decide, by decide, rfl, by decide⟩

/-- A player before its first block: skipped blocks only, then a refused one, then a playable one; the used bits of 0x11
blocks at the ends of their range and outside it; a block ID of each class, and 0x20 in both. -/
theorem test_witness_BlocksStartInOrder :
    Tape.empty.currentBlockIndex + 1 = (([] : List TzxBlock).length : Int) ∧
      (∀ b ∈ [TzxBlock.groupEnd, .textDescription [0x41]], b.playback = .skipped) ∧
      (TzxBlock.pause 0).playback = .refused ∧ (TzxBlock.pureTone 1 1).playback = .refused ∧
      (TzxBlock.standardSpeed 0 [0xFF]).playback = .playable ∧
      (1 ≤ (1 : Byte).toNat ∧ (8 : Byte).toNat ≤ 8 ∧ (0 : Byte).toNat = 0 ∧ 8 < (9 : Byte).toNat) ∧
      (decodeTapeBlock 0x20 [1, 0]).playback = .playable ∧ (decodeTapeBlock 0x20 [0, 0]).playback = .refused ∧
      (decodeTapeBlock 0x11 []).playback = .playable ∧ (decodeTapeBlock 0x34 []).playback = .skipped ∧
      (decodeTapeBlock 0x2B []).playback = .refused := by
  decide

theorem test_witness_QueryPassesFinishedBlocks :
    playing.lastQueryTact ≤ 0 ∧ { playing with lastQueryTact := 1 }.lastQueryTact > 0 ∧ playing.playPhase ≠ .completed ∧
      playing.currentBlock = some (.standardSpeed 0 [0xFF]) ∧
      (∃ tl, (TzxBlock.standardSpeed 0 [0xFF]).timeline = some tl ∧ 7016225 < playing.blockStart + tl.duration ∧
        playing.blockStart + tl.duration ≤ 7016226) ∧
      { playing with playPhase := .completed }.playPhase = .completed :=
  ⟨by decide, by decide, by decide, rfl, ⟨_, rfl, by decide, by decide⟩, rfl⟩

/-- Two queries in a row, the second past the end of the block. -/
theorem test_witness_EarLevelIsFunctionOfTact :
    playing.getEarBit 0 = .next (true, playing) ∧ (∃ r, playing.getEarBit 2168 = .next (false, r)) ∧
      ∃ b r, playing.getEarBit 7016226 = .next (b, r) ∧ r.playPhase = .completed :=
  ⟨rfl, ⟨_, rfl⟩, _, _, rfl, rfl⟩

/-- Blocks in their layouts, with and without data, one of them cut in its fixed fields and in its data; an ID outside the
registry. -/
theorem test_witness_TapeFilesReadOrFail :
    ([] : List Byte).length < 10 ∧ (TzxBlock.standardSpeed 1000 [0xFF]).LaidOut [0x10, 0xE8, 0x03, 1, 0, 0xFF] ∧
      TzxBlock.groupEnd.LaidOut [0x22] ∧
      (TzxBlock.archiveInfo (some 1) [⟨.title, [0x4A]⟩] []).LaidOut [0x32, 4, 0, 1, 0, 1, 0x4A] ∧
      (TzxBlock.deprecated 0x34).LaidOut [0x34, 0, 0, 0, 0, 0, 0, 0, 0] ∧
      (0x99 : Byte).toNat ∉ [0x10, 0x11, 0x12, 0x13] ∧ readContent [] = .error .badHeader ∧
      ∀ k, 0 < k → k < 6 →
        readContent ([0x5A, 0x58, 0x54, 0x61, 0x70, 0x65, 0x21, 0x1A, 1, 20] ++
          [0x10, 0xE8, 0x03, 1, 0, 0xFF].take k) = .error (.truncated 0x10 10) := by
  refine ⟨by decide, ⟨by decide, rfl⟩, rfl, ⟨by decide, rfl, ?_, by decide, rfl⟩, ?_, by decide, rfl, ?_⟩
  · intro t ht
    cases List.mem_singleton.mp ht
    exact ⟨by decide, nofun⟩
  · exact ⟨List.replicate 8 0, .inr (.inl ⟨rfl, rfl, rfl⟩)⟩
  · intro k h0 h6
    interval_cases k <;> rfl

/-- A configuration for each error, and one that can be built but for the length of its image. -/
theorem test_witness_ConstructionChecksConfiguration :
    construct ⟨1, 8, 1, [5, 2, 0], none⟩ = .fault (.configuration (.bankIndexOutOfRange 1)) ∧
      construct ⟨1, 8, 0, [5, 8, 0], none⟩ = .fault (.configuration (.bankIndexOutOfRange 8)) ∧
      construct ⟨1, 8, 0, [5, 2, 0], none⟩ = .fault (.configuration .missingRomImage) ∧
      construct ⟨1, 8, 0, [5, 2, 0], some [0xF3]⟩ = .fault (.configuration (.wrongRomLength 1)) ∧
      ∃ s, construct ⟨1, 8, 0, [5, 2, 0], some (List.replicate 16384 0xF3)⟩ = .next s := by
  have h : ∀ image : List Byte, image.length = romLength → ∃ s, construct ⟨1, 8, 0, [5, 2, 0], some image⟩ = .next s := by
    intro image h
    simp [construct, Configuration.error, firstBadBank, h]
  exact ⟨rfl, rfl, rfl, rfl, h _ List.length_replicate⟩

end Sys2Proof.Tests
end

section
/-! PROOFS of the statements of 10_state.md. The registers of the CPU that almost no instruction touches (the shadow
set, I, R, the state of interrupts and prefixes) and MEMPTR are masked: `exec_oblivious` says that every instruction but
those of `touchesMasked` runs alike whatever they hold, `exec_maskedAfter` what every instruction leaves in them. The
statements about shadow registers, MEMPTR, the control registers and the invariant's control part follow. -/

namespace Sys2Proof.Machine

/-! ### Ignored prefixes (30_encoding.md R126) -/

theorem execUnprefixed_eq_exec {i : Instr} (h : i.ignoresPrefix = true) (s : State) :
    execUnprefixed i s = exec i s := by
  cases i with
  | nop | ldRpNn | ldMemBcA | ldMemDeA | ldMemNnA | incRp | decRp | incR | decR | ldRN | rlca | rrca | rla | rra | daa
  | cpl | scf | ccf | exAfAf | ldAMemBc | ldAMemDe | ldAMemNn | djnz | jr | jrCc | ldRR | halt | addAR | addAN | adcAR
  | adcAN | subR | subN | sbcAR | sbcAN | andR | andN | xorR | xorN | orR | orN | cpR | cpN | retCc | popQq | ret | exx
  | jpCcNn | jpNn | outNA | inAN | exDeHl | di | ei | callCcNn | pushQq | callNn | rst => rfl
  | _ => nomatch h

/-- Ignored prefixes leave the meaning of the instruction behind them (30_encoding.md R126). -/
theorem exec_prefixIgnored (x : IndexReg) (i : Instr) (s : State) :
    exec (.prefixIgnored x i) s = if i.ignoresPrefix then exec i s else .refused .illFormedInstruction := by
  show (if i.ignoresPrefix then execUnprefixed i s else _) = _
  split
  · exact execUnprefixed_eq_exec ‹_› s
  · rfl

theorem behindPrefix_of_ignoresPrefix {i : Instr} (h : i.ignoresPrefix = true) : behindPrefix i = i := by
  cases i with
  | prefixIgnored => nomatch h
  | _ => rfl

/-! ### Masked registers -/

/-- The state with the registers that an ordinary instruction leaves alone taken from `k`: the shadow set (10_state.md
R32), I, R, the state of interrupts and prefixes (R38 to R46); and with MEMPTR `w` (R44). -/
def State.masked (s : State) (k : Cpu) (w : Word) : State :=
  { s with cpu := { s.cpu with
      a' := k.a', f' := k.f', b' := k.b', c' := k.c', d' := k.d', e' := k.e', h' := k.h', l' := k.l'
      i := k.i, r := k.r, iff1 := k.iff1, iff2 := k.iff2, im := k.im, halted := k.halted, pfx := k.pfx
      eiBlock := k.eiBlock, nmiPending := k.nmiPending, memptr := w } }

theorem State.masked_self (s : State) : s.masked s.cpu s.cpu.memptr = s := rfl

/-! ### Operations on a masked state -/

section
variable (s : State) (k : Cpu) (w : Word)

theorem State.reg_masked (r : Reg8) : (s.masked k w).reg r = s.reg r := by cases r <;> rfl
theorem State.regX_masked (x : IndexReg) (r : Reg8X) : (s.masked k w).regX x r = s.regX x r := by
  cases x <;> cases r <;> rfl
theorem State.setReg_masked (r : Reg8) (v : Byte) : (s.masked k w).setReg r v = (s.setReg r v).masked k w := by
  cases r <;> rfl
theorem State.setRegX_masked (x : IndexReg) (r : Reg8X) (v : Byte) :
    (s.masked k w).setRegX x r v = (s.setRegX x r v).masked k w := by
  cases x <;> cases r <;> rfl
theorem State.memWrite_masked (a : Word) (v : Byte) : (s.masked k w).memWrite a v = (s.memWrite a v).masked k w := by
  unfold State.memWrite
  split <;> rfl
theorem State.memWrite16_masked (a v : Word) : (s.masked k w).memWrite16 a v = (s.memWrite16 a v).masked k w := by
  unfold State.memWrite16
  rw [State.memWrite_masked, State.memWrite_masked]
theorem State.push_masked (v : Word) : (s.masked k w).push v = (s.push v).masked k w := by
  show (((s.masked k w).memWrite (s.cpu.sp - 1) (highByte v)).memWrite (s.cpu.sp - 2) (lowByte v)).setSp _ = _
  rw [State.memWrite_masked, State.memWrite_masked]
  rfl

theorem State.charge_masked (n : Nat) (l : List Access) : (s.masked k w).charge n l = (s.charge n l).masked k w := by
  unfold State.charge
  rw [State.waits_congr (s := s) (t := s.masked k w) rfl rfl rfl l]
  rfl

theorem memWrite_charge_masked (a : Word) (v : Byte) (n : Nat) (l : List Access) :
    ((s.masked k w).memWrite a v).charge n l = ((s.memWrite a v).charge n l).masked k w := by
  rw [State.memWrite_masked, State.charge_masked]

theorem push_charge_masked (v : Word) (n : Nat) (l : List Access) :
    ((s.masked k w).push v).charge n l = ((s.push v).charge n l).masked k w := by
  rw [State.push_masked, State.charge_masked]

theorem modifyMem_masked (op : ByteOp) (ea : Word) (n : Nat) :
    modifyMem op ea n (s.masked k w) = (modifyMem op ea n s).masked k w := by
  unfold modifyMem
  rw [State.memWrite_masked]
  rfl

/-- The EAR input does not depend on the masked registers. -/
theorem State.earInput_masked :
    (s.masked k w).earInput = andThen s.earInput fun x => .next (x.1, x.2.masked k w) := by
  show (if (s.tape.loaded && s.tape.playing) = true then _ else _) = _
  unfold State.earInput
  split
  · show andThen (s.tape.getEarBit s.cpu.tacts) _ = _
    cases s.tape.getEarBit s.cpu.tacts <;> rfl
  · rfl

/-- A port read does not depend on the masked registers. -/
theorem portRead_masked (p : Word) :
    portRead p (s.masked k w) = andThen (portRead p s) fun x => .next (x.1, x.2.masked k w) := by
  show (if isUlaPort p = true then if s.ula.timeOk s.cpu.tacts = true then _ else _ else _) = _
  unfold portRead
  split
  · split
    · rw [State.earInput_masked]
      cases s.earInput <;> rfl
    · rfl
  · rfl

/-- A port write does not depend on the masked registers. -/
theorem portWrite_masked (p : Word) (v : Byte) :
    portWrite p v (s.masked k w) = mapNext (fun u => u.masked k w) (portWrite p v s) := by
  show (if isUlaPort p = true then if s.ula.timeOk s.cpu.tacts = true then _ else _ else _) = _
  unfold portWrite
  split
  · split <;> rfl
  · rfl

/-- What goes on with the byte of a port read, where it goes on alike. -/
theorem portRead_andThen_masked {p : Word} {K K' : Byte × State → Result} {v : Word}
    (h : ∀ x, portRead p s = .next x → K' (x.1, x.2.masked k w) = mapNext (fun u => u.masked k v) (K x)) :
    andThen (portRead p (s.masked k w)) K' = mapNext (fun u => u.masked k v) (andThen (portRead p s) K) := by
  rw [portRead_masked]
  cases hx : portRead p s with
  | next x => exact h x hx
  | fault e => rfl
  | refused r => rfl

/-- What goes on after a port write, where it goes on alike. -/
theorem portWrite_andThen_masked {p : Word} {x : Byte} {K K' : State → Result} {v : Word}
    (h : ∀ u, K' (u.masked k w) = mapNext (fun t => t.masked k v) (K u)) :
    andThen (portWrite p x (s.masked k w)) K' = mapNext (fun t => t.masked k v) (andThen (portWrite p x s) K) := by
  rw [portWrite_masked]
  cases portWrite p x s with
  | next u => exact h u
  | fault e => rfl
  | refused r => rfl

end

/-! ### Meanings that do not look at the masked registers -/

/-- The meaning `f` neither reads nor writes a masked register, and MEMPTR after it is a function of MEMPTR before. -/
def Oblivious (f : State → Result) : Prop :=
  ∀ s, ∃ μ : Word → Word, ∀ k w, f (s.masked k w) = mapNext (fun u => u.masked k (μ w)) (f s)

/-- A meaning that leaves MEMPTR alone. -/
theorem Oblivious.keep {f : State → State} (h : ∀ s k w, f (s.masked k w) = (f s).masked k w) :
    Oblivious fun s => .next (f s) :=
  fun s => ⟨id, fun k w => congrArg _ (h s k w)⟩

/-- A meaning that writes `v` to MEMPTR. -/
theorem Oblivious.write {f : State → State} (v : State → Word) (h : ∀ s k w, f (s.masked k w) = (f s).masked k (v s)) :
    Oblivious fun s => .next (f s) :=
  fun s => ⟨fun _ => v s, fun k w => congrArg _ (h s k w)⟩

theorem Oblivious.ite {c : State → Prop} [∀ s, Decidable (c s)] {f g : State → Result}
    (hc : ∀ s k w, c (s.masked k w) ↔ c s) (hf : Oblivious f) (hg : Oblivious g) :
    Oblivious fun s => if c s then f s else g s := by
  intro s
  by_cases h : c s
  · simpa only [hc, h, if_true] using hf s
  · simpa only [hc, h, if_false] using hg s

theorem Oblivious.iteNext {c : State → Prop} [∀ s, Decidable (c s)] {f g : State → State}
    (hc : ∀ s k w, c (s.masked k w) ↔ c s) (hf : Oblivious fun s => .next (f s)) (hg : Oblivious fun s => .next (g s)) :
    Oblivious fun s => .next (if c s then f s else g s) := by
  simpa only [apply_ite] using hf.ite hc hg

/-! ### The operand forms -/

theorem modifyMemXy_masked (s : State) (k : Cpu) (w : Word) (op : ByteOp) (x : IndexReg) (d : Byte) (n : Nat) :
    modifyMemXy op x d n (s.masked k w) = (modifyMemXy op x d n s).masked k (s.indexAddress x d) := by
  cases x <;> exact modifyMem_masked (s.setMemptr _) k _ op _ n

theorem modifyMemXyCopy_masked (s : State) (k : Cpu) (w : Word) (op : ByteOp) (x : IndexReg) (d : Byte) (r : Reg8)
    (n : Nat) :
    modifyMemXyCopy op x d r n (s.masked k w) = (modifyMemXyCopy op x d r n s).masked k (s.indexAddress x d) := by
  have hv : (op ((s.masked k w).memRead ((s.masked k w).indexAddress x d)) (s.masked k w).cpu.f).1 =
      (op (s.memRead (s.indexAddress x d)) s.cpu.f).1 := by cases x <;> rfl
  unfold modifyMemXyCopy
  rw [modifyMemXy_masked, State.setReg_masked, hv]

theorem storeATo_masked (s : State) (k : Cpu) (w : Word) (a : Word) (n : Nat) :
    storeATo a n (s.masked k w) = (storeATo a n s).masked k (word s.cpu.a (lowByte (a + 1))) := by
  unfold storeATo
  rw [State.memWrite_masked]
  rfl

theorem storeWord_masked (s : State) (k : Cpu) (w : Word) (a v : Word) (n : Nat) :
    storeWord a v n (s.masked k w) = (storeWord a v n s).masked k (a + 1) := by
  unfold storeWord
  rw [State.memWrite16_masked]
  exact State.charge_masked ((s.memWrite16 a v).setMemptr (a + 1)) k (a + 1) n _

theorem exchangeStack_masked (s : State) (k : Cpu) (w : Word) (v : Word) :
    exchangeStack v (s.masked k w) = (exchangeStack v s).masked k (s.memRead16 s.cpu.sp) := by
  unfold exchangeStack
  rw [show (s.masked k w).cpu.sp = s.cpu.sp from rfl, State.memWrite16_masked]
  exact State.charge_masked ((s.memWrite16 s.cpu.sp v).setMemptr (s.memRead16 s.cpu.sp)) k _ 19 _

theorem digitRotate_masked (s : State) (k : Cpu) (w : Word) (x y : Byte) :
    digitRotate x y (s.masked k w) = (digitRotate x y s).masked k (s.hl + 1) := by
  unfold digitRotate
  rw [show (s.masked k w).hl = s.hl from rfl, State.memWrite_masked]
  exact State.charge_masked ((((s.memWrite s.hl x).setA y).setMemptr (s.hl + 1)).setF _) k (s.hl + 1) 14 _

theorem call_charge_masked (s : State) (k : Cpu) (w target : Word) (n : Nat) (l : List Access) :
    ((s.masked k w).call target).charge n l = ((s.call target).charge n l).masked k target := by
  unfold State.call
  rw [show (s.masked k w).setMemptr target = (s.setMemptr target).masked k target from rfl, State.push_masked]
  exact State.charge_masked (((s.setMemptr target).push s.cpu.pc).setPc target) k target n l

theorem ldBlock_masked (s : State) (k : Cpu) (w : Word) (dir : Dir) :
    ldBlock dir (s.masked k w) = (ldBlock dir s).masked k w := by
  unfold ldBlock
  simp only [State.memWrite_masked]
  rfl

theorem inBlockStore_masked (dir : Dir) (v : Byte) (s : State) (k : Cpu) (w : Word) :
    inBlockStore dir v (s.masked k w) = (inBlockStore dir v s).masked k (dir.move s.bc) := by
  unfold inBlockStore
  simp only [State.memWrite_masked]
  rfl

theorem ldBlock_oblivious (dir : Dir) :
    Oblivious fun s => .next ((ldBlock dir s).charge 12 [readAt s.hl, writeAt s.de]) :=
  .keep fun s k w => by
    rw [ldBlock_masked]
    exact State.charge_masked (ldBlock dir s) k w 12 _

theorem ldBlockRepeat_oblivious (dir : Dir) : Oblivious fun s => .next (ldBlockRepeat dir s) := by
  refine .iteNext (fun s k w => ?_) (.write (fun s => (ldBlock dir s).cpu.pc - 1) fun s k w => ?_)
    (.keep fun s k w => ?_)
  all_goals
    rw [ldBlock_masked]
    rfl

/-- CPI, CPD and their kin move MEMPTR by one (40_load_exchange.md R244, R246). -/
theorem cpBlock_oblivious (dir : Dir) : Oblivious fun s => .next ((cpBlock dir s).charge 12 [readAt s.hl]) :=
  fun _ => ⟨dir.move, fun _ _ => rfl⟩

theorem cpBlockRepeat_oblivious (dir : Dir) : Oblivious fun s => .next (cpBlockRepeat dir s) :=
  .iteNext (fun _ _ _ => Iff.rfl) (.write (fun s => s.cpu.pc - 1) fun _ _ _ => rfl) (cpBlock_oblivious dir)

theorem inBlock_oblivious (dir : Dir) (n : Nat) : Oblivious (inBlock dir n) := by
  refine fun s => ⟨fun _ => dir.move s.bc, fun k w =>
    portRead_andThen_masked (s.charge n [portReadAt s.bc, writeAt s.hl]) k w fun x hx => ?_⟩
  have hbc : x.2.bc = s.bc := by
    unfold State.bc
    rw [(portRead_cases hx).1]
    rfl
  show Host.Outcome.next (inBlockStore dir x.1 (x.2.masked k w)) = _
  rw [inBlockStore_masked, hbc]
  rfl

theorem outBlock_oblivious (dir : Dir) (n : Nat) : Oblivious (outBlock dir n) := by
  intro s
  let s1 := s.setReg .b (s.cpu.b - 1)
  exact ⟨fun _ => dir.move s1.bc, fun k w =>
    portWrite_andThen_masked (s1.charge n [readAt s.hl, portWriteAt s1.bc]) k w fun _ => rfl⟩

/-- PC set back after an oblivious meaning, as INIR, OTIR and their kin do while they repeat. -/
theorem Oblivious.repeatPc {f : State → Result} (h : Oblivious f) :
    Oblivious fun s => andThen (f s) fun t => .next t.repeatPc := by
  intro s
  obtain ⟨μ, hμ⟩ := h s
  refine ⟨μ, fun k w => ?_⟩
  simp only [hμ k w]
  cases f s <;> rfl

theorem inBlockRepeat_oblivious (dir : Dir) : Oblivious (inBlockRepeat dir) :=
  .ite (c := fun s => s.cpu.b - 1 ≠ 0) (fun _ _ _ => Iff.rfl) (inBlock_oblivious dir 17).repeatPc
    (inBlock_oblivious dir 12)

theorem outBlockRepeat_oblivious (dir : Dir) : Oblivious (outBlockRepeat dir) :=
  .ite (c := fun s => s.cpu.b - 1 ≠ 0) (fun _ _ _ => Iff.rfl) (outBlock_oblivious dir 17).repeatPc
    (outBlock_oblivious dir 12)

/-- The instructions that read or write one of the masked registers (10_state.md R32, R38 to R46), or read MEMPTR
otherwise than to move it (45_bit.md R361). -/
def touchesMasked : Instr → Bool
  | .exAfAf | .exx | .bitMemHl _ | .ldIA | .ldRA | .ldAI | .ldAR | .im0 _ | .im0Undoc _ | .im1 _ | .im2 _ | .di | .ei
  | .halt | .reti | .retn _ | .prefixCb | .prefixDd | .prefixEd | .prefixFd | .prefixXyCb _ | .prefixDdReplaces _
  | .prefixEdReplaces _ | .prefixFdReplaces _ => true
  | .prefixIgnored _ i => touchesMasked i
  | _ => false

/-- Every other instruction is oblivious: its meaning passes the masked registers through. -/
theorem exec_oblivious {i : Instr} (ht : touchesMasked i = false) : Oblivious (exec i) := by
  induction i with
  -- Nothing to split: the operands are fixed by the instruction.
  | nop | rlca | rrca | rla | rra | daa | cpl | scf | ccf | addAMemHl | adcAMemHl | subMemHl | sbcAMemHl | andMemHl
  | xorMemHl | orMemHl | cpMemHl | addAN | adcAN | subN | sbcAN | andN | xorN | orN | cpN | exDeHl | jpHl | ldSpHl | neg
  | nopEd7 | nopEd0 | nopEd3 | nopEd2 => exact .keep fun _ _ _ => rfl
  -- An operand that is a register, a pair or an index register.
  | incR r | decR r | ldRN r | ldRMemHl r | addAR r | adcAR r | subR r | sbcAR r | andR r | xorR r | orR r | cpR r
  | rlcR r | rrcR r | rlR r | rrR r | slaR r | sraR r | sllR r | srlR r | bitR _ r | resR _ r | setR _ r =>
    exact .keep fun _ _ _ => by cases r <;> rfl
  | ldRpNn p | incRp p | decRp p | popQq p => exact .keep fun _ _ _ => by cases p <;> rfl
  | ldXyNn x | incXy x | decXy x | popXy x | jpXy x | ldSpXy x => exact .keep fun _ _ _ => by cases x <;> rfl
  | incXyHalf x h | decXyHalf x h | ldXyHalfN x h | addAXyHalf x h | adcAXyHalf x h | subXyHalf x h | sbcAXyHalf x h
  | andXyHalf x h | xorXyHalf x h | orXyHalf x h | cpXyHalf x h =>
    exact .keep fun _ _ _ => by cases x <;> cases h <;> rfl
  | ldRR dst src =>
    exact .keep fun s k w => by rw [State.reg_masked, State.setReg_masked, State.charge_masked]
  | ldXyRR x dst src =>
    exact .keep fun s k w => by rw [State.regX_masked, State.setRegX_masked, State.charge_masked]
  -- Memory is written, MEMPTR is not.
  | ldMemHlN => exact .keep fun s k w => memWrite_charge_masked s k w _ _ _ _
  | ldMemHlR r => exact .keep fun s k w => by cases r <;> exact memWrite_charge_masked s k w _ _ _ _
  | incMemHl | decMemHl | rlcMemHl | rrcMemHl | rlMemHl | rrMemHl | slaMemHl | sraMemHl | sllMemHl | srlMemHl | resMemHl
  | setMemHl => exact .keep fun s k w => modifyMem_masked s k w _ _ _
  | pushQq q => exact .keep fun s k w => by cases q <;> exact push_charge_masked s k w _ _ _
  | pushXy x => exact .keep fun s k w => by cases x <;> exact push_charge_masked s k w _ _ _
  | ldi => exact ldBlock_oblivious .inc
  | ldd => exact ldBlock_oblivious .dec
  | ldir => exact ldBlockRepeat_oblivious .inc
  | lddr => exact ldBlockRepeat_oblivious .dec
  -- MEMPTR takes an address.
  | ldAMemBc => exact .write (fun s => s.bc + 1) fun _ _ _ => rfl
  | ldAMemDe => exact .write (fun s => s.de + 1) fun _ _ _ => rfl
  | ldAMemNn nn | ldHlMemNn nn => exact .write (fun _ => nn + 1) fun _ _ _ => rfl
  | ldRpMemNn p nn => exact .write (fun _ => nn + 1) fun _ _ _ => by cases p <;> rfl
  | ldXyMemNn x nn => exact .write (fun _ => nn + 1) fun _ _ _ => by cases x <;> rfl
  | ldMemBcA => exact .write (fun s => word s.cpu.a (lowByte (s.bc + 1))) fun s k w => storeATo_masked s k w _ _
  | ldMemDeA => exact .write (fun s => word s.cpu.a (lowByte (s.de + 1))) fun s k w => storeATo_masked s k w _ _
  | ldMemNnA nn => exact .write (fun s => word s.cpu.a (lowByte (nn + 1))) fun s k w => storeATo_masked s k w _ _
  | ldMemNnHl => exact .write _ fun s k w => storeWord_masked s k w _ _ _
  | ldMemNnRp p nn => exact .write (fun _ => nn + 1) fun s k w => by cases p <;> exact storeWord_masked s k w _ _ _
  | ldMemNnXy x nn => exact .write (fun _ => nn + 1) fun s k w => by cases x <;> exact storeWord_masked s k w _ _ _
  | addHlRp p | adcHlRp p | sbcHlRp p => exact .write (fun s => s.hl + 1) fun _ _ _ => by cases p <;> rfl
  | addXyRp x p => exact .write (fun s => s.xy x + 1) fun _ _ _ => by cases x <;> cases p <;> rfl
  | exMemSpHl =>
    exact .write (fun s => s.memRead16 s.cpu.sp) fun s k w => by
      rw [exchangeStack_masked]
      rfl
  | exMemSpXy x =>
    refine .write (fun s => s.memRead16 s.cpu.sp) fun s k w => ?_
    rw [exchangeStack_masked]
    cases x <;> rfl
  | rld | rrd => exact .write (fun s => s.hl + 1) fun s k w => digitRotate_masked s k w _ _
  | addAMemXy x d | adcAMemXy x d | subMemXy x d | sbcAMemXy x d | andMemXy x d | xorMemXy x d | orMemXy x d
  | cpMemXy x d | bitMemXy x d | bitMemXyDup x d =>
    exact .write (fun s => s.indexAddress x d) fun _ _ _ => by cases x <;> rfl
  | incMemXy | decMemXy | rlcMemXy | rrcMemXy | rlMemXy | rrMemXy | slaMemXy | sraMemXy | sllMemXy | srlMemXy
  | resMemXy | setMemXy => exact .write _ fun s k w => modifyMemXy_masked s k w _ _ _ _
  | rlcMemXyR | rrcMemXyR | rlMemXyR | rrMemXyR | slaMemXyR | sraMemXyR | sllMemXyR | srlMemXyR | resMemXyR
  | setMemXyR =>
    exact .write _ fun s k w => modifyMemXyCopy_masked s k w _ _ _ _ _
  | ldRMemXy x r d => exact .write (fun s => s.indexAddress x d) fun _ _ _ => by cases x <;> cases r <;> rfl
  | ldMemXyN x d n =>
    exact .write (fun s => s.indexAddress x d) fun s k w => by
      cases x <;> exact memWrite_charge_masked (s.setMemptr _) k _ _ _ _ _
  | ldMemXyR x r d =>
    exact .write (fun s => s.indexAddress x d) fun s k w => by
      cases x <;> cases r <;> exact memWrite_charge_masked (s.setMemptr _) k _ _ _ _ _
  -- Jumps, calls and returns.
  | jpNn nn => exact .write (fun _ => nn) fun _ _ _ => rfl
  | jr e => exact .write (fun s => s.relativeTarget e) fun _ _ _ => rfl
  | jpCcNn cc nn =>
    refine .write (fun _ => nn) fun s k w => ?_
    show State.charge (if condHolds s.cpu.f cc = true then _ else _) 10 [] = _
    by_cases h : condHolds s.cpu.f cc = true
    · rw [if_pos h, if_pos h]
      rfl
    · rw [if_neg h, if_neg h]
      rfl
  | jrCc cc e =>
    exact .iteNext (fun _ _ _ => Iff.rfl) (.write (fun s => s.relativeTarget e) fun _ _ _ => rfl)
      (.keep fun _ _ _ => rfl)
  | djnz e =>
    exact .iteNext (c := fun s => s.cpu.b - 1 ≠ 0) (fun _ _ _ => Iff.rfl)
      (.write (fun s => s.relativeTarget e) fun _ _ _ => rfl) (.keep fun _ _ _ => rfl)
  | callNn nn => exact .write (fun _ => nn) fun s k w => call_charge_masked s k w _ _ _
  | rst t => exact .write (fun _ => restartAddress t) fun s k w => call_charge_masked s k w _ _ _
  | callCcNn cc nn =>
    exact .iteNext (fun _ _ _ => Iff.rfl) (.write (fun _ => nn) fun s k w => call_charge_masked s k w _ _ _)
      (.write (fun _ => nn) fun _ _ _ => rfl)
  | ret => exact .write (fun s => s.popValue) fun _ _ _ => rfl
  | retCc cc =>
    exact .iteNext (fun _ _ _ => Iff.rfl) (.write (fun s => s.popValue) fun _ _ _ => rfl) (.keep fun _ _ _ => rfl)
  -- Block searches, and the ports.
  | cpi => exact cpBlock_oblivious .inc
  | cpd => exact cpBlock_oblivious .dec
  | cpir => exact cpBlockRepeat_oblivious .inc
  | cpdr => exact cpBlockRepeat_oblivious .dec
  | ini => exact inBlock_oblivious .inc 12
  | ind => exact inBlock_oblivious .dec 12
  | inir => exact inBlockRepeat_oblivious .inc
  | indr => exact inBlockRepeat_oblivious .dec
  | outi => exact outBlock_oblivious .inc 12
  | outd => exact outBlock_oblivious .dec 12
  | otir => exact outBlockRepeat_oblivious .inc
  | otdr => exact outBlockRepeat_oblivious .dec
  | inAN n =>
    exact fun s => ⟨fun _ => word s.cpu.a n + 1, fun k w =>
      portRead_andThen_masked (s.charge 11 [portReadAt (word s.cpu.a n)]) k w fun _ _ => rfl⟩
  | inRC r =>
    exact fun s => ⟨fun _ => s.bc + 1, fun k w =>
      portRead_andThen_masked (s.charge 8 [portReadAt s.bc]) k w fun _ _ => by cases r <;> rfl⟩
  | inC =>
    exact fun s => ⟨fun _ => s.bc + 1, fun k w =>
      portRead_andThen_masked (s.charge 8 [portReadAt s.bc]) k w fun _ _ => rfl⟩
  | outNA n =>
    exact fun s => ⟨fun _ => word s.cpu.a (n + 1), fun k w =>
      portWrite_andThen_masked (s.charge 11 [portWriteAt (word s.cpu.a n)]) k w fun _ => rfl⟩
  | outCR r =>
    refine fun s => ⟨fun _ => s.bc + 1, fun k w => ?_⟩
    show andThen (portWrite s.bc ((s.masked k w).reg r) ((s.charge 8 [portWriteAt s.bc]).masked k w)) _ = _
    rw [State.reg_masked]
    exact portWrite_andThen_masked (s.charge 8 [portWriteAt s.bc]) k w fun _ => rfl
  | outC0 =>
    exact fun s => ⟨fun _ => s.bc + 1, fun k w =>
      portWrite_andThen_masked (s.charge 8 [portWriteAt s.bc]) k w fun _ => rfl⟩
  | prefixIgnored x i ih =>
    rw [funext (exec_prefixIgnored x i)]
    exact .ite (fun _ _ _ => Iff.rfl) (ih ht) fun _ => ⟨id, fun _ _ => rfl⟩
  | _ => nomatch ht

/-- An oblivious meaning leaves every masked register but MEMPTR as it was. -/
theorem Oblivious.eq_masked {f : State → Result} (hf : Oblivious f) {s t : State} (h : f s = .next t) :
    ∃ w, t = t.masked s.cpu w := by
  obtain ⟨μ, hμ⟩ := hf s
  have hs := hμ s.cpu s.cpu.memptr
  rw [State.masked_self, h] at hs
  exact ⟨_, Host.Outcome.next.inj hs⟩

/-! ### The shadow registers (10_state.md R32) -/

/-- An oblivious meaning commutes with a change of the shadow registers. -/
theorem Oblivious.withShadow {f : State → Result} (hf : Oblivious f) (s : State) (c : Cpu) :
    f (s.withShadow c) = mapNext (fun t => t.withShadow c) (f s) := by
  obtain ⟨μ, hμ⟩ := hf s
  have hs := hμ s.cpu s.cpu.memptr
  rw [State.masked_self] at hs
  calc f (s.withShadow c) = mapNext (fun t => t.masked (s.withShadow c).cpu (μ s.cpu.memptr)) (f s) :=
        hμ (s.withShadow c).cpu s.cpu.memptr
    _ = mapNext (fun t => t.withShadow c) (mapNext (fun t => t.masked s.cpu (μ s.cpu.memptr)) (f s)) := by
        cases f s <;> rfl
    _ = mapNext (fun t => t.withShadow c) (f s) := by rw [← hs]

/-- Every instruction but EX AF,AF' and EXX commutes with a change of the shadow registers: the oblivious ones by
`exec_oblivious`, the others by their meanings. -/
theorem exec_withShadow {i : Instr} (s : State) (c : Cpu) (haf : behindPrefix i ≠ .exAfAf)
    (hx : behindPrefix i ≠ .exx) :
    exec i (s.withShadow c) = mapNext (fun t => t.withShadow c) (exec i s) := by
  by_cases ht : touchesMasked i = true
  · induction i with
    | exAfAf => exact absurd rfl haf
    | exx => exact absurd rfl hx
    | prefixXyCb x => cases x <;> rfl
    | prefixIgnored x i ih =>
      rw [exec_prefixIgnored, exec_prefixIgnored]
      split
      · rename_i hi
        have hb := behindPrefix_of_ignoresPrefix hi
        exact ih (by rwa [hb]) (by rwa [hb]) ht
      · rfl
    | bitMemHl | ldIA | ldRA | ldAI | ldAR | im0 | im0Undoc | im1 | im2 | di | ei | halt | reti | retn | prefixCb
    | prefixDd | prefixEd | prefixFd | prefixDdReplaces | prefixEdReplaces | prefixFdReplaces => rfl
    | _ => nomatch ht
  · exact (exec_oblivious (by simpa using ht)).withShadow s c

/-- Settles O41: the two runs agree by `exec_withShadow`, and the frame is the same fact for the shadow registers the
state already has. -/
theorem shadowRegistersOnlyExchanged : Obligations.ShadowRegistersOnlyExchanged := by
  intro i s c haf hx
  refine ⟨exec_withShadow s c haf hx, fun t ht => ?_⟩
  have h := exec_withShadow s s.cpu haf hx
  rw [show s.withShadow s.cpu = s from rfl, ht] at h
  exact (Host.Outcome.next.inj h).symm

/-! ### MEMPTR (10_state.md R44) -/

/-- An oblivious meaning run with another MEMPTR ends alike but for MEMPTR. -/
theorem Oblivious.hides_memptr {f : State → Result} (hf : Oblivious f) (s : State) (w : Word) :
    mapNext (fun t => t.setMemptr 0) (f (s.setMemptr w)) = mapNext (fun t => t.setMemptr 0) (f s) := by
  obtain ⟨μ, hμ⟩ := hf s
  have hs := hμ s.cpu s.cpu.memptr
  rw [State.masked_self] at hs
  rw [show s.setMemptr w = s.masked s.cpu w from rfl, hμ s.cpu w, hs]
  cases f s <;> rfl

/-- Settles O42: MEMPTR after an oblivious meaning is a function of MEMPTR before, and nothing else depends on it; the
other instructions but BIT b,(HL) do not read it. -/
theorem memptrReadByBitHlOnly : Obligations.MemptrReadByBitHlOnly := by
  intro i s w hb
  by_cases ht : touchesMasked i = true
  · induction i with
    | bitMemHl b => exact absurd rfl (hb b)
    | prefixXyCb x => cases x <;> rfl
    | prefixIgnored x i ih =>
      rw [exec_prefixIgnored, exec_prefixIgnored]
      split
      · rename_i hi
        exact ih (fun b hb => nomatch (hb ▸ hi : (Instr.bitMemHl b).ignoresPrefix = true)) ht
      · rfl
    | exAfAf | exx | ldIA | ldRA | ldAI | ldAR | im0 | im0Undoc | im1 | im2 | di | ei | halt | reti | retn | prefixCb
    | prefixDd | prefixEd | prefixFd | prefixDdReplaces | prefixEdReplaces | prefixFdReplaces => rfl
    | _ => nomatch ht
  · exact (exec_oblivious (by simpa using ht)).hides_memptr s w

/-! ### The control registers (10_state.md R38 to R46) -/

/-- The CPU with the masked registers as the instruction `i` leaves them, MEMPTR apart. -/
def Cpu.maskedAfter (c : Cpu) (i : Instr) : Cpu :=
  match i with
  | .exAfAf | .prefixIgnored _ .exAfAf => { c with a' := c.a, f' := c.f }
  | .exx | .prefixIgnored _ .exx => { c with b' := c.b, c' := c.c, d' := c.d, e' := c.e, h' := c.h, l' := c.l }
  | .ldIA => { c with i := c.a }
  | .ldRA => { c with r := c.a }
  | .im0 _ | .im0Undoc _ => { c with im := .im0 }
  | .im1 _ => { c with im := .im1 }
  | .im2 _ => { c with im := .im2 }
  | .di | .prefixIgnored _ .di => { c with iff1 := false, iff2 := false }
  | .ei | .prefixIgnored _ .ei => { c with iff1 := true, iff2 := true, eiBlock := true }
  | .reti | .retn _ => { c with iff1 := c.iff2 }
  | .halt | .prefixIgnored _ .halt => { c with halted := true }
  | .prefixCb => { c with pfx := .cb }
  | .prefixDd | .prefixDdReplaces _ => { c with pfx := .dd }
  | .prefixEd | .prefixEdReplaces _ => { c with pfx := .ed }
  | .prefixFd | .prefixFdReplaces _ => { c with pfx := .fd }
  | .prefixXyCb .ix => { c with pfx := .ddcb }
  | .prefixXyCb .iy => { c with pfx := .fdcb }
  | _ => c

theorem Cpu.maskedAfter_of_untouched {i : Instr} (ht : touchesMasked i = false) (c : Cpu) : c.maskedAfter i = c := by
  revert ht
  unfold Cpu.maskedAfter
  split <;> simp [touchesMasked]

/-- Index prefixes leave alone five of the instructions that touch a masked register. -/
theorem touched_ignoresPrefix {i : Instr} (ht : touchesMasked i = true) (hi : i.ignoresPrefix = true) :
    i = .exAfAf ∨ i = .exx ∨ i = .di ∨ i = .ei ∨ i = .halt := by
  cases i with
  | exAfAf | exx | di | ei | halt => simp
  | bitMemHl | ldIA | ldRA | ldAI | ldAR | im0 | im0Undoc | im1 | im2 | reti | retn | prefixCb | prefixDd | prefixEd
  | prefixFd | prefixXyCb | prefixDdReplaces | prefixEdReplaces | prefixFdReplaces | prefixIgnored => nomatch hi
  | _ => nomatch ht

/-- Adding tacts touches no masked register. -/
theorem charge_eq_masked {u : State} {k : Cpu} {w : Word} {n : Nat} {l : List Access} (h : u = u.masked k w) :
    u.charge n l = (u.charge n l).masked k w := by
  rw [← State.charge_masked, ← h]

/-- Every instruction leaves the masked registers as `Cpu.maskedAfter` says. -/
theorem exec_maskedAfter {i : Instr} {s t : State} (h : exec i s = .next t) :
    ∃ w, t = t.masked (s.cpu.maskedAfter i) w := by
  by_cases ht : touchesMasked i = true
  · cases i with
    | prefixXyCb x =>
      cases h
      cases x <;> exact ⟨_, charge_eq_masked rfl⟩
    | prefixIgnored x i =>
      rw [exec_prefixIgnored] at h
      split at h
      · rename_i hi
        have hj : touchesMasked i = true := ht
        obtain rfl | rfl | rfl | rfl | rfl := touched_ignoresPrefix hj hi
        all_goals
          cases h
          exact ⟨_, charge_eq_masked rfl⟩
      · cases h
    | exAfAf | exx | bitMemHl | ldIA | ldRA | ldAI | ldAR | im0 | im0Undoc | im1 | im2 | di | ei | halt | reti | retn
    | prefixCb | prefixDd | prefixEd | prefixFd | prefixDdReplaces | prefixEdReplaces | prefixFdReplaces =>
      cases h
      exact ⟨_, charge_eq_masked rfl⟩
    | _ => nomatch ht
  · have hf : touchesMasked i = false := by simpa using ht
    rw [Cpu.maskedAfter_of_untouched hf]
    exact (exec_oblivious hf).eq_masked h

theorem refreshed_bit7 (r : Byte) : (refreshed r).getLsbD 7 = r.getLsbD 7 := by
  revert r
  decide

/-- Settles O43: what `Cpu.maskedAfter` changes, instruction by instruction. -/
theorem controlRegistersAndTheirWriters : Obligations.ControlRegistersAndTheirWriters := by
  refine ⟨refreshed_bit7, fun i s t h => ?_⟩
  obtain ⟨w, hw⟩ := exec_maskedAfter h
  rw [hw]
  generalize s.cpu = c
  simp only [State.masked]
  unfold Cpu.maskedAfter
  split <;> simp [behindPrefix]

/-! ### The invariant's control state (10_state.md R40, R42, R43, R45) -/

/-- An instruction executed as a step does it, not halted, no prefixes pending, the EI block cleared, keeps the control
state. -/
theorem exec_controlled {i : Instr} {s t : State} (h : exec i s = .next t)
    (hiff : s.cpu.iff1 = true → s.cpu.iff2 = true) (hh : s.cpu.halted = false) (hp : s.cpu.pfx = .none)
    (he : s.cpu.eiBlock = false) : t.controlled := by
  obtain ⟨w, hw⟩ := exec_maskedAfter h
  rw [hw]
  simp only [State.controlled, State.masked]
  unfold Cpu.maskedAfter
  split <;> simp +contextual [hiff, hh, hp, he]

theorem runStep_controlled {s t : State} (h : runStep s = .next t) (hs : s.controlled) (he : s.cpu.eiBlock = false) :
    t.controlled := by
  obtain ⟨hiff, hh, -⟩ := hs
  unfold runStep at h
  split at h
  · cases h
    exact ⟨hiff, hh, fun h' => absurd (he.symm.trans h') (by decide)⟩
  · rename_i hn
    unfold fetchAndExecute at h
    rw [andThen_next] at h
    obtain ⟨x, hx, h⟩ := h
    obtain ⟨rest, -, hs⟩ := State.fetch_next.mp hx
    apply exec_controlled h <;> simp_all [State.afterFetch_cpu]

theorem acceptNmi_controlled {s : State} (he : s.cpu.eiBlock = false) : (acceptNmi s).controlled := by
  simp [State.controlled, acceptNmi, State.enterHandler_cpu, State.acknowledge_cpu, he]

theorem acceptInt_controlled {s : State} (he : s.cpu.eiBlock = false) : (acceptInt s).controlled := by
  unfold acceptInt
  cases s.cpu.im <;> simp [State.controlled, State.enterHandler_cpu, State.acknowledge_cpu, he]

theorem cpuStep_controlled {s t : State} (h : cpuStep s = .next t) (hs : s.controlled) : t.controlled := by
  by_cases hp : s.cpu.pfx = .none
  · rw [cpuStep_boundary hp] at h
    have h1 : (s.setEiBlock false).controlled := ⟨hs.1, hs.2.1, fun h' => nomatch h'⟩
    unfold sampleAndRun at h
    simp only at h
    split at h
    · cases h
      exact acceptNmi_controlled rfl
    · split at h
      · cases h
        exact acceptInt_controlled rfl
      · exact runStep_controlled h h1 rfl
  · rw [cpuStep_inside hp] at h
    refine runStep_controlled h hs ?_
    by_contra he
    exact hp (hs.2.2 (by simpa using he)).2.1

/-! ### The invariant's time and data, from what a CPU step can do -/

theorem Effect.ulaTime {s u : State} (e : Effect s u) (h : s.ulaTimed) : UlaTime u.ula u.cpu.tacts := by
  obtain ⟨hstart, hle, -, hflash, hlow, hhigh⟩ := h
  unfold State.frameTact at hhigh
  have ht := e.tacts
  have hs : UlaTime s.ula u.cpu.tacts := ⟨hstart, by omega, hflash, hlow, by omega⟩
  obtain hu | ⟨m, x, -, hu⟩ := e.ula
  · rw [hu]
    exact hs
  · rw [hu]
    exact hs.writePort m x

theorem Effect.buffer_wf {s u : State} (e : Effect s u) (h : s.ula.buffer.wf = true) : u.ula.buffer.wf = true := by
  obtain hu | ⟨m, x, -, hu⟩ := e.ula
  · rwa [hu]
  · rw [hu]
    exact Ula.writePort_wf m _ x h

theorem State.tapeTimed_iff (s : State) : s.tapeTimed ↔ (s.tape.playing = true → TapeTime s.tape s.cpu.tacts) :=
  forall_congr' fun _ => ⟨fun h => ⟨h.1, h.2⟩, fun h => ⟨h.queried, h.current⟩⟩

theorem Effect.tapeTimed {s u : State} (e : Effect s u) (h : s.tapeTimed) : u.tapeTimed := by
  rw [State.tapeTimed_iff] at h ⊢
  have ht : s.cpu.tacts ≤ u.cpu.tacts := (Nat.le_add_right _ 4).trans e.tacts
  intro hp
  obtain hu | ⟨b, hs, hu⟩ := e.tape
  · rw [hu] at hp ⊢
    exact (h hp).mono ht
  · exact (((h hs).mono ht).getEarBit.2 b _ hu).1

theorem UlaTime.ulaTimed {s : State} (h : UlaTime s.ula s.cpu.tacts)
    (hlt : s.cpu.tacts < s.ula.frameStart + frameTacts) : s.ulaTimed := by
  refine ⟨h.start, h.started, hlt, h.flash, h.lastLow, ?_⟩
  have h1 := h.lastHigh
  have h2 := h.started
  unfold State.frameTact
  omega

/-- Settles O44: canonical form and the two times from `cpuStep_effect` and the ULA's catch-up, the control state from
`cpuStep_controlled`. -/
theorem stepKeepsInvariant : Obligations.StepKeepsInvariant := by
  rintro s t ⟨⟨hmem, hbuf⟩, hula, htape, hctl⟩ h
  obtain ⟨u, hu, -, rfl⟩ := step_next.mp h
  have e := cpuStep_effect hu
  obtain ⟨htime, hlt⟩ := (e.ulaTime hula).catchUp u.mem
  exact ⟨⟨e.wf hmem, Ula.catchUp_wf _ _ (e.buffer_wf hbuf)⟩, htime.ulaTimed hlt, e.tapeTimed htape,
    cpuStep_controlled (t := u) hu hctl⟩

/-- Settles O40: a CPU step by `cpuStep_effect`, the ULA's catch-up adds no tact; a host action by its definition. -/
theorem everyStepAddsTacts : Obligations.EveryStepAddsTacts := by
  constructor
  · intro s t h
    obtain ⟨u, hu, -, rfl⟩ := step_next.mp h
    have e := cpuStep_effect hu
    exact ⟨e.tacts, e.env⟩
  · intro a s t h
    cases a with
    | reset draw | requestNmi | setKeyboard k =>
      cases h
      rfl
    | loadTape file =>
      cases h
      simp only [loadTape]
      split <;> rfl
    | startTape =>
      obtain ⟨p, -, hp⟩ := andThen_next.mp h
      cases hp
      rfl

/-- Settles O5: the meaning of every one of these bytes is a `prefixStep`. -/
theorem prefixBytesSetPrefix : Obligations.PrefixBytesSetPrefix := by
  have h : ∀ (i : Instr) (s : State) (p : Pfx), exec i s = .next (prefixStep p s) →
      SetsCpu i s { s.cpu with pfx := p, tacts := s.after 4 [] } :=
    fun i s p hx => .of_next hx rfl rfl rfl rfl rfl
  exact fun s => ⟨h _ s _ rfl, h _ s _ rfl, h _ s _ rfl, h _ s _ rfl, h _ s _ rfl, h _ s _ rfl,
    fun x => ⟨h _ s _ rfl, h _ s _ rfl, h _ s _ rfl⟩⟩

/-! ### NMI acceptance (60_exceptions.md R560) -/

theorem nextR_eq_refreshed (r : Byte) : nextR r = refreshed r := by
  revert r
  decide

theorem acceptNmi_cpu (s : State) :
    (acceptNmi s).cpu =
      { s.cpu with
        nmiPending := false, halted := false, r := refreshed s.cpu.r, iff1 := false
        sp := s.cpu.sp - 2, pc := 0x0066, memptr := 0x0066
        tacts := s.after 11 [writeAt (s.cpu.sp - 1), writeAt (s.cpu.sp - 2)] } := by
  simp [acceptNmi, State.enterHandler_cpu, State.acknowledge_cpu, nextR_eq_refreshed, nmiVector, State.after,
    State.pushAccesses]

theorem acceptNmi_stored (s : State) : StoredWord s.mem (acceptNmi s).mem (s.cpu.sp - 2) s.cpu.pc := by
  simpa [acceptNmi, State.acknowledge_cpu] using
    State.push_stored ((s.setNmiPending false).acknowledge false) s.cpu.pc

/-- Settles O34: the sampling point takes the NMI first, and the ULA's time allows the catch-up. -/
theorem nmiAcceptance : Obligations.NmiAcceptance := by
  intro s hula hp hn
  have hu : cpuStep s = .next (acceptNmi (s.setEiBlock false)) := by
    simp [cpuStep_boundary hp, sampleAndRun, hn]
  have hok := ((cpuStep_effect hu).ulaTime hula).timeOk
  refine ⟨_, step_next.mpr ⟨_, hu, hok, rfl⟩, ?_, acceptNmi_stored (s.setEiBlock false), ?_, ?_, ?_⟩
  · simp [acceptNmi_cpu, State.after]
  · show (acceptNmi (s.setEiBlock false)).ula.catchUp _ (acceptNmi (s.setEiBlock false)).cpu.tacts = _
    rw [acceptNmi_cpu]
    simp [acceptNmi, State.after]
  · simp [acceptNmi]
  · simp [acceptNmi]

/-! ### Reset (10_state.md R50; 70_reset_and_hazards.md R600, R602) -/

/-- Settles O46: every part is a closed fact about `State.reset`, whose player does not play. -/
theorem resetMeetsInvariant : Obligations.ResetMeetsInvariant := by
  refine ⟨⟨rfl, rfl⟩, ⟨rfl, Nat.le_refl 0, by decide, rfl, by decide, by decide⟩, fun h => ?_, ?_⟩
  · exact absurd h (by decide)
  · unfold State.controlled
    decide

/-- A tape that does not play leaves the EAR input at `EAR_IDLE` (48_ula.md R459). -/
theorem earAnswers_of_not_playing {s : State} (h : s.tape.playing = false) : EarAnswers s s.earIdleLevel s.tape := by
  simp [EarAnswers, h]

/-- Settles O47: `hostReset` and `State.reset` write the values. -/
theorem resetWritesSpecValues : Obligations.ResetWritesSpecValues := by
  rintro draw s t (rfl | rfl)
  · exact ⟨by simp [hostReset], by simp [hostReset], rfl, earAnswers_of_not_playing rfl, fun _ => ⟨rfl, rfl, rfl⟩⟩
  · refine ⟨by decide, by decide, rfl, earAnswers_of_not_playing rfl, fun h => ?_⟩
    rw [h]
    exact ⟨rfl, rfl, rfl⟩

/-! ### Register views (10_state.md R31, R33) -/

theorem State.reg_setReg (s : State) (r : Reg8) (v : Byte) (r' : Reg8) :
    (s.setReg r v).reg r' = if r' = r then v else s.reg r' := by
  cases r <;> cases r' <;> rfl

theorem State.rp_setRp (s : State) (p : RegPair) (v : Word) (p' : RegPair) :
    (s.setRp p v).rp p' = if p' = p then v else s.rp p' := by
  cases p <;> cases p' <;> simp [State.setRp, State.rp, State.bc, State.de, State.hl]

theorem State.stackPair_setStackPair (s : State) (p : StackPair) (v : Word) (p' : StackPair) :
    (s.setStackPair p v).stackPair p' = if p' = p then v else s.stackPair p' := by
  cases p <;> cases p' <;> simp [State.setStackPair, State.stackPair, State.bc, State.de, State.hl, State.af]

theorem State.xy_setXy (s : State) (x : IndexReg) (v : Word) (y : IndexReg) :
    (s.setXy x v).xy y = if y = x then v else s.xy y := by
  cases x <;> cases y <;> rfl

theorem State.xyHalf_setXyHalf (s : State) (x : IndexReg) (h : Half) (v : Byte) (y : IndexReg) (k : Half) :
    (s.setXyHalf x h v).xyHalf y k = if y = x ∧ k = h then v else s.xyHalf y k := by
  cases h <;> cases k <;> by_cases hy : y = x <;>
    simp [State.setXyHalf, State.xyHalf, State.xy_setXy, hy]

theorem State.regX_setRegX (s : State) (x : IndexReg) (r : Reg8X) (v : Byte) (r' : Reg8X) :
    (s.setRegX x r v).regX x r' = if r' = r then v else s.regX x r' := by
  cases r with
  | xyh | xyl => cases r' <;> simp [State.setRegX, State.regX, State.xyHalf_setXyHalf]
  | _ => cases x <;> cases r' <;> rfl

theorem State.xy_setRegX_of_ne (s : State) (x : IndexReg) (r : Reg8X) (v : Byte) {y : IndexReg} (h : y ≠ x) :
    (s.setRegX x r v).xy y = s.xy y := by
  cases r with
  | xyh | xyl => simp [State.setRegX, State.setXyHalf, State.xy_setXy, h]
  | _ => cases y <;> rfl

/-- Settles O7 from the read-after-write lemma of each accessor; the frames hold case by case. -/
theorem registerViewsAgree : Obligations.RegisterViewsAgree := by
  intro s v w
  refine ⟨?_, ⟨word_toNat _ _, word_toNat _ _, word_toNat _ _, word_toNat _ _⟩, ⟨rfl, rfl, rfl, rfl, rfl, rfl, rfl⟩,
    ⟨rfl, rfl, rfl, rfl⟩, ⟨rfl, rfl, rfl, rfl⟩, ⟨rfl, rfl⟩, fun x => ?_,
    fun x => ⟨rfl, rfl, rfl, rfl, rfl, rfl, rfl, rfl, rfl, rfl, rfl⟩, ⟨rfl, rfl, rfl⟩, ?_, ?_, ?_, ?_, ?_⟩
  · rintro r _ rfl
    exact ⟨State.reg_setReg s r v, by cases r <;> rfl⟩
  · exact (congrArg _ (word_high_low (s.xy x))).symm.trans (word_toNat _ _)
  · rintro p _ rfl
    exact ⟨State.rp_setRp s p w, by cases p <;> rfl⟩
  · rintro p _ rfl
    exact ⟨State.stackPair_setStackPair s p w, by cases p <;> rfl⟩
  · rintro x _ rfl
    exact ⟨State.xy_setXy s x w, by cases x <;> rfl⟩
  · rintro x h _ rfl
    exact ⟨State.xyHalf_setXyHalf s x h v, by cases x <;> cases h <;> rfl⟩
  · rintro x r _ rfl
    exact ⟨State.regX_setRegX s x r v, fun _ hy => State.xy_setRegX_of_ne s x r v hy,
      by cases x <;> cases r <;> rfl⟩

end Sys2Proof.Machine
end

section
/-! PROOFS of the statements of 20_memory.md. -/

namespace Sys2Proof.Machine

/-- A step leaves ROM as it was (20_memory.md R82): the CPU's part of it does, acceptances included, and the ULA's work
after it writes no memory. -/
theorem step_rom {s t : State} (h : step s = .next t) {k : Nat} (hk : k < ramStart) : t.mem.read k = s.mem.read k := by
  obtain ⟨u, hu, -, rfl⟩ := step_next.mp h
  exact (cpuStep_effect hu).rom k hk

/-- Settles O39: the write by `State.memWrite_stored`, a step by `step_rom`. -/
theorem romNeverChanges : Obligations.RomNeverChanges :=
  ⟨State.memWrite_stored, fun _ _ h _ hk => step_rom h hk⟩

end Sys2Proof.Machine
end

section
/-! PROOFS of the statements of 30_encoding.md. `Reads` says what an answer of the decoder means for the bytes it read;
one lemma for each function of the decoder, a table by the fields of the opcode, gives O3. `LastStep` says that an encoding is the
bytes of the prefixes and then bytes that decode to the instruction, case by case over the instructions; it gives O2.
Both meet the ignored prefixes in `encode_head`: the first byte of an encoding tells whether DD and FD leave the
instruction alone. -/

namespace Sys2Proof.Machine

/-! ### The fields of an opcode byte -/

/-- A case split on the octal digit a field holds (30_encoding.md R116). -/
theorem octal {P : BitVec 3 → Prop} (v : BitVec 3) (d0 : P 0) (d1 : P 1) (d2 : P 2) (d3 : P 3) (d4 : P 4) (d5 : P 5)
    (d6 : P 6) (d7 : P 7) : P v := by
  obtain ⟨⟨k, hk⟩⟩ := v
  interval_cases k <;> assumption

/-- A case split on field x, with the fields y and z of the byte. -/
theorem byFields {P : Byte → Prop} (op : Byte) (x0 : ∀ y z : BitVec 3, P (0#2 ++ y ++ z))
    (x1 : ∀ y z : BitVec 3, P (1#2 ++ y ++ z)) (x2 : ∀ y z : BitVec 3, P (2#2 ++ y ++ z))
    (x3 : ∀ y z : BitVec 3, P (3#2 ++ y ++ z)) : P op := by
  have hop : op = fieldX op ++ fieldY op ++ fieldZ op := by
    revert op
    decide
  rw [hop]
  match fieldX op with
  | 0 => exact x0 _ _
  | 1 => exact x1 _ _
  | 2 => exact x2 _ _
  | 3 => exact x3 _ _

@[simp] theorem fieldX_append (x : BitVec 2) (y z : BitVec 3) : fieldX (x ++ y ++ z) = x := by
  revert x y z
  decide

/-! ### The bytes of what is decoded -/

/-- An answer about `head`, the bytes of prefixes and opcode, and `bytes`, those from the operands on: an instruction it
gives is well-formed, and its encoding and what is left are these bytes. -/
def Reads (head bytes : List Byte) (r : DecodeResult) : Prop :=
  ∀ i rest, r = .ok (i, rest) → i.wellFormed = true ∧ head ++ bytes = encode i ++ rest

section
variable {head tail : List Byte}

theorem Reads.none {i : Instr} (h : i.wellFormed = true ∧ encode i = head) : Reads head tail (operandNone i tail) := by
  rintro _ _ ⟨⟩
  exact ⟨h.1, by rw [h.2]⟩

theorem Reads.byte {i : Byte → Instr} (h : ∀ n, (i n).wellFormed = true ∧ encode (i n) = head ++ [n]) :
    Reads head tail (operandByte i tail) := by
  match tail with
  | [] => exact nofun
  | n :: rest =>
    rintro _ _ ⟨⟩
    exact ⟨(h n).1, by simp [(h n).2]⟩

theorem Reads.bytes {i : Byte → Byte → Instr} (h : ∀ d n, (i d n).wellFormed = true ∧ encode (i d n) = head ++ [d, n]) :
    Reads head tail (operandBytes i tail) := by
  match tail with
  | [] | [_] => exact nofun
  | d :: n :: rest =>
    rintro _ _ ⟨⟩
    exact ⟨(h d n).1, by simp [(h d n).2]⟩

theorem Reads.word {i : Word → Instr}
    (h : ∀ nn, (i nn).wellFormed = true ∧ encode (i nn) = head ++ [lowByte nn, highByte nn]) :
    Reads head tail (operandWord i tail) := by
  match tail with
  | [] | [_] => exact nofun
  | lo :: hi :: rest =>
    rintro _ _ ⟨⟩
    exact ⟨(h _).1, by simp [(h _).2]⟩

end

/-! ### The unprefixed, CB and ED spaces (R122 to R124), and DDCB and FDCB (R128) -/

theorem decodeX0_reads (y z : BitVec 3) (bytes : List Byte) :
    Reads [0#2 ++ y ++ z] bytes (decodeX0 (0#2 ++ y ++ z) bytes) := by
  cases z using octal with
  | d0 => cases y using octal with
    | d0 | d1 => exact .none ⟨rfl, rfl⟩
    | d2 | d3 | d4 | d5 | d6 | d7 => exact .byte fun _ => ⟨rfl, rfl⟩
  | d1 => cases y using octal with
    | d0 | d2 | d4 | d6 => exact .word fun _ => ⟨rfl, rfl⟩
    | d1 | d3 | d5 | d7 => exact .none ⟨rfl, rfl⟩
  | d2 => cases y using octal with
    | d0 | d1 | d2 | d3 => exact .none ⟨rfl, rfl⟩
    | d4 | d5 | d6 | d7 => exact .word fun _ => ⟨rfl, rfl⟩
  | d3 | d4 | d5 | d7 => cases y using octal <;> exact .none ⟨rfl, rfl⟩
  | d6 => cases y using octal <;> exact .byte fun _ => ⟨rfl, rfl⟩

theorem decodeX3_reads (y z : BitVec 3) (bytes : List Byte) :
    Reads [3#2 ++ y ++ z] bytes (decodeX3 (3#2 ++ y ++ z) bytes) := by
  cases z using octal with
  | d0 | d1 | d7 => cases y using octal <;> exact .none ⟨rfl, rfl⟩
  | d2 | d4 => cases y using octal <;> exact .word fun _ => ⟨rfl, rfl⟩
  | d3 => cases y using octal with
    | d0 => exact .word fun _ => ⟨rfl, rfl⟩
    | d2 | d3 => exact .byte fun _ => ⟨rfl, rfl⟩
    | d1 | d4 | d5 | d6 | d7 => exact .none ⟨rfl, rfl⟩
  | d5 => cases y using octal with
    | d1 => exact .word fun _ => ⟨rfl, rfl⟩
    | d0 | d2 | d3 | d4 | d5 | d6 | d7 => exact .none ⟨rfl, rfl⟩
  | d6 => cases y using octal <;> exact .byte fun _ => ⟨rfl, rfl⟩

theorem encode_decodeCb (op : Byte) : (decodeCb op).wellFormed = true ∧ encode (decodeCb op) = [0xCB, op] := by
  revert op
  decide

theorem encode_decodeX1 (y z : BitVec 3) :
    (decodeX1 (1#2 ++ y ++ z)).wellFormed = true ∧ encode (decodeX1 (1#2 ++ y ++ z)) = [1#2 ++ y ++ z] := by
  revert y z
  decide

theorem encode_decodeX2 (y z : BitVec 3) :
    (decodeX2 (2#2 ++ y ++ z)).wellFormed = true ∧ encode (decodeX2 (2#2 ++ y ++ z)) = [2#2 ++ y ++ z] := by
  revert y z
  decide

theorem decodeMain_reads (op : Byte) (bytes : List Byte) : Reads [op] bytes (decodeMain op bytes) := by
  unfold decodeMain
  cases op using byFields <;> rw [fieldX_append]
  case x0 y z => exact decodeX0_reads y z bytes
  case x1 y z => exact .none (encode_decodeX1 y z)
  case x2 y z => exact .none (encode_decodeX2 y z)
  case x3 y z => exact decodeX3_reads y z bytes

theorem encode_decodeXyCb (x : IndexReg) (d op : Byte) :
    (decodeXyCb x d op).wellFormed = true ∧ encode (decodeXyCb x d op) = [indexByte x, 0xCB, d, op] := by
  cases op using byFields with
  | x0 y z | x1 y z | x2 y z | x3 y z => cases y using octal <;> cases z using octal <;> exact ⟨rfl, rfl⟩

theorem decodeEdX1_reads (y z : BitVec 3) (bytes : List Byte) :
    Reads [0xED, 1#2 ++ y ++ z] bytes (decodeEdX1 (1#2 ++ y ++ z) bytes) := by
  cases z using octal with
  | d3 => cases y using octal <;> exact .word fun _ => ⟨rfl, rfl⟩
  | d0 | d1 | d2 | d4 | d5 | d6 | d7 => cases y using octal <;> exact .none ⟨rfl, rfl⟩

theorem decodeEd_reads (op : Byte) (bytes : List Byte) : Reads [0xED, op] bytes (decodeEd op bytes) := by
  cases op using byFields with
  | x1 y z =>
    unfold decodeEd
    rw [fieldX_append]
    exact decodeEdX1_reads y z bytes
  | x0 y z | x2 y z | x3 y z => cases y using octal <;> cases z using octal <;> exact .none ⟨rfl, rfl⟩

/-! ### Behind DD and FD (R125 to R127) -/

theorem decodeIndexed_reads (x : IndexReg) {op : Byte} (bytes : List Byte) (h : indexable op = true) :
    Reads [indexByte x, op] bytes (decodeIndexed x op bytes) := by
  cases op using byFields with
  | x0 y z => cases z using octal with
    | d1 => cases y using octal with
      | d4 => exact .word fun _ => ⟨rfl, rfl⟩
      | d1 | d3 | d5 | d7 => exact .none ⟨rfl, rfl⟩
      | d0 | d2 | d6 => nomatch h
    | d2 => cases y using octal with
      | d4 | d5 => exact .word fun _ => ⟨rfl, rfl⟩
      | d0 | d1 | d2 | d3 | d6 | d7 => nomatch h
    | d3 => cases y using octal with
      | d4 | d5 => exact .none ⟨rfl, rfl⟩
      | d0 | d1 | d2 | d3 | d6 | d7 => nomatch h
    | d4 | d5 => cases y using octal with
      | d4 | d5 => exact .none ⟨rfl, rfl⟩
      | d6 => exact .byte fun _ => ⟨rfl, rfl⟩
      | d0 | d1 | d2 | d3 | d7 => nomatch h
    | d6 => cases y using octal with
      | d4 | d5 => exact .byte fun _ => ⟨rfl, rfl⟩
      | d6 => exact .bytes fun _ _ => ⟨rfl, rfl⟩
      | d0 | d1 | d2 | d3 | d7 => nomatch h
    | d0 | d7 => cases y using octal <;> nomatch h
  | x1 y z => cases z using octal with
    | d6 => cases y using octal with
      | d6 => nomatch h
      | d0 | d1 | d2 | d3 | d4 | d5 | d7 => exact .byte fun _ => ⟨rfl, rfl⟩
    | d4 | d5 => cases y using octal with
      | d6 => exact .byte fun _ => ⟨rfl, rfl⟩
      | d0 | d1 | d2 | d3 | d4 | d5 | d7 => exact .none ⟨rfl, rfl⟩
    | d0 | d1 | d2 | d3 | d7 => cases y using octal with
      | d6 => exact .byte fun _ => ⟨rfl, rfl⟩
      | d4 | d5 => exact .none ⟨rfl, rfl⟩
      | d0 | d1 | d2 | d3 | d7 => nomatch h
  | x2 y z => cases z using octal with
    | d4 | d5 => cases y using octal <;> exact .none ⟨rfl, rfl⟩
    | d6 => cases y using octal <;> exact .byte fun _ => ⟨rfl, rfl⟩
    | d0 | d1 | d2 | d3 | d7 => cases y using octal <;> nomatch h
  | x3 y z => cases z using octal with
    | d1 => cases y using octal with
      | d4 | d5 | d7 => exact .none ⟨rfl, rfl⟩
      | d0 | d1 | d2 | d3 | d6 => nomatch h
    | d3 | d5 => cases y using octal with
      | d4 => exact .none ⟨rfl, rfl⟩
      | d0 | d1 | d2 | d3 | d5 | d6 | d7 => nomatch h
    | d0 | d2 | d4 | d6 | d7 => cases y using octal <;> nomatch h

/-- The opcode means something of its own behind DD and FD: it is indexable, or one of the prefixes. -/
def takesIndexPrefix (op : Byte) : Bool := indexable op || [0xCB, 0xDD, 0xED, 0xFD].contains op

/-- The model's test is the list of the rule. -/
theorem takesIndexPrefix_iff (op : Byte) : takesIndexPrefix op = true ↔ IsIndexable op := by
  unfold IsIndexable
  revert op
  decide

theorem notMem_prefixes_of_indexable {op : Byte} (h : indexable op = true) : op ∉ [0xCB, 0xDD, 0xED, 0xFD] := by
  revert op
  decide

theorem decodeAfterIndex_eq (x : IndexReg) {op : Byte} (bytes : List Byte) (h : op ∉ [0xCB, 0xDD, 0xED, 0xFD]) :
    decodeAfterIndex x op bytes =
      if indexable op then decodeIndexed x op bytes
      else (decodeMain op bytes).map fun j => (.prefixIgnored x j.1, j.2) := by
  unfold decodeAfterIndex
  split
  case h_5 => cases decodeMain op bytes <;> rfl
  all_goals simp_all [← BitVec.toNat_inj]

theorem decodeAfterIndex_ignored (x : IndexReg) {op : Byte} (bytes : List Byte) (h : takesIndexPrefix op = false) :
    decodeAfterIndex x op bytes = (decodeMain op bytes).map fun j => (.prefixIgnored x j.1, j.2) := by
  obtain ⟨hi, hp⟩ := Bool.or_eq_false_iff.mp h
  rw [decodeAfterIndex_eq x bytes (by simpa using hp), hi]
  rfl

/-- The first byte of an encoding tells whether DD and FD leave the instruction alone. -/
theorem encode_head (i : Instr) :
    ∃ op rest, encode i = op :: rest ∧ i.ignoresPrefix = !takesIndexPrefix op := by
  cases i with
  | ldRpNn p | incRp p | decRp p | addHlRp p | popQq p | pushQq p => cases p <;> exact ⟨_, _, rfl, rfl⟩
  | incR r | decR r | ldRN r | ldRMemHl r | ldMemHlR r | addAR r | adcAR r | subR r | sbcAR r | andR r | xorR r | orR r
  | cpR r => cases r <;> exact ⟨_, _, rfl, rfl⟩
  | ldRR dst src => cases dst <;> cases src <;> exact ⟨_, _, rfl, rfl⟩
  | jrCc cc | retCc cc | jpCcNn cc | callCcNn cc => cases cc <;> exact ⟨_, _, rfl, rfl⟩
  | rst t => cases t using octal <;> exact ⟨_, _, rfl, rfl⟩
  | addXyRp x | ldXyNn x | ldMemNnXy x | ldXyMemNn x | incXy x | decXy x | incXyHalf x | decXyHalf x | ldXyHalfN x
  | incMemXy x | decMemXy x | ldMemXyN x | ldRMemXy x | ldMemXyR x | ldXyRR x
  | addAXyHalf x | adcAXyHalf x | subXyHalf x | sbcAXyHalf x | andXyHalf x | xorXyHalf x | orXyHalf x | cpXyHalf x
  | addAMemXy x | adcAMemXy x | subMemXy x | sbcAMemXy x | andMemXy x | xorMemXy x | orMemXy x | cpMemXy x
  | popXy x | exMemSpXy x | pushXy x | jpXy x | ldSpXy x
  | prefixXyCb x | prefixDdReplaces x | prefixEdReplaces x | prefixFdReplaces x | prefixIgnored x
  | rlcMemXy x | rrcMemXy x | rlMemXy x | rrMemXy x | slaMemXy x | sraMemXy x | sllMemXy x | srlMemXy x
  | rlcMemXyR x | rrcMemXyR x | rlMemXyR x | rrMemXyR x | slaMemXyR x | sraMemXyR x | sllMemXyR x | srlMemXyR x
  | bitMemXy x | bitMemXyDup x | resMemXy x | resMemXyR x | setMemXy x | setMemXyR x =>
    cases x <;> exact ⟨_, _, rfl, rfl⟩
  | _ => exact ⟨_, _, rfl, rfl⟩

/-- What is decoded behind an ignored DD or FD ignores it: its encoding begins with the opcode. -/
theorem decodeAfterIndex_ignored_reads (x : IndexReg) {op : Byte} (bytes : List Byte) (h : takesIndexPrefix op = false) :
    Reads [indexByte x, op] bytes (decodeAfterIndex x op bytes) := by
  rw [decodeAfterIndex_ignored x bytes h]
  match hd : decodeMain op bytes with
  | .error e => exact nofun
  | .ok (i, rest) =>
    rintro _ _ ⟨⟩
    obtain ⟨op', tail, he, hi⟩ := encode_head i
    obtain ⟨-, hb⟩ := decodeMain_reads op bytes i rest hd
    obtain rfl : op = op' := by simp_all
    exact ⟨by simp [Instr.wellFormed, hi, h], congrArg (indexByte x :: ·) hb⟩

theorem decodeAfterIndex_reads (x : IndexReg) (op : Byte) (bytes : List Byte) :
    Reads [indexByte x, op] bytes (decodeAfterIndex x op bytes) := by
  cases h : takesIndexPrefix op with
  | false => exact decodeAfterIndex_ignored_reads x bytes h
  | true =>
    obtain hi | rfl | rfl | rfl | rfl : indexable op = true ∨ op = 0xCB ∨ op = 0xDD ∨ op = 0xED ∨ op = 0xFD := by
      simpa [takesIndexPrefix] using h
    · rw [decodeAfterIndex_eq x bytes (notMem_prefixes_of_indexable hi), if_pos hi]
      exact decodeIndexed_reads x bytes hi
    all_goals exact .none ⟨rfl, rfl⟩

/-- Settles O3: for each state of the prefixes, what the function that decodes there reads. -/
theorem encodeReadsBackDecode : Obligations.EncodeReadsBackDecode := by
  intro p bytes rest i h
  match p, bytes with
  | .none, op :: bytes => exact decodeMain_reads op bytes i rest h
  | .cb, op :: bytes => exact Reads.none (encode_decodeCb op) i rest h
  | .ed, op :: bytes => exact decodeEd_reads op bytes i rest h
  | .dd, op :: bytes => exact decodeAfterIndex_reads .ix op bytes i rest h
  | .fd, op :: bytes => exact decodeAfterIndex_reads .iy op bytes i rest h
  | .ddcb, d :: op :: bytes => exact Reads.none (encode_decodeXyCb .ix d op) i rest h
  | .fdcb, d :: op :: bytes => exact Reads.none (encode_decodeXyCb .iy d op) i rest h
  | .ddcb, [_] | .fdcb, [_] => nomatch h
  | p, [] => cases p <;> nomatch h

/-! ### The steps of an encoding -/

theorem decodeSeq_last {p : Pfx} {bytes : List Byte} {i : Instr} (n : Nat) (h : decode p bytes = .ok (i, [])) :
    decodeSeq (n + 1) p bytes = .ok i := by
  unfold decodeSeq
  rw [h]

/-- The steps of the prefixes lead to the state that is named by their bytes. -/
theorem decodeBytes_prefixBytes (p : Pfx) (b : Byte) (bytes : List Byte) :
    decodeBytes (prefixBytes p ++ b :: bytes) = decodeSeq (bytes.length + 1) p (b :: bytes) := by
  cases p <;> rfl

theorem decodeBytes_of_decode {p : Pfx} {bytes : List Byte} {i : Instr} (h : decode p bytes = .ok (i, [])) :
    decodeBytes (prefixBytes p ++ bytes) = .ok i := by
  match bytes with
  | [] => cases p <;> nomatch h
  | b :: bytes => rw [decodeBytes_prefixBytes, decodeSeq_last _ h]

theorem operandWord_low_high (i : Word → Instr) (nn : Word) :
    operandWord i [lowByte nn, highByte nn] = .ok (i nn, []) := by
  rw [operandWord, word_high_low]

/-- The encoding is the bytes of the prefixes, and bytes that one step behind them decodes to the instruction. -/
def LastStep (i : Instr) : Prop := ∃ p bytes, encode i = prefixBytes p ++ bytes ∧ decode p bytes = .ok (i, [])

theorem LastStep.indexed {i : Instr} {x : IndexReg} {op : Byte} {bytes : List Byte}
    (he : encode i = indexByte x :: op :: bytes) (hd : decodeAfterIndex x op bytes = .ok (i, [])) : LastStep i := by
  cases x with
  | ix => exact ⟨.dd, _, he, hd⟩
  | iy => exact ⟨.fd, _, he, hd⟩

theorem LastStep.indexedCb {i : Instr} {x : IndexReg} {d op : Byte}
    (he : encode i = [indexByte x, 0xCB, d, op]) (hd : decodeXyCb x d op = i) : LastStep i := by
  subst hd
  cases x with
  | ix => exact ⟨.ddcb, _, he, rfl⟩
  | iy => exact ⟨.fdcb, _, he, rfl⟩

theorem LastStep.ignored {i : Instr} (x : IndexReg) (hl : LastStep i) (h : i.ignoresPrefix = true) :
    LastStep (.prefixIgnored x i) := by
  obtain ⟨op, rest, he, hi⟩ := encode_head i
  have hop : takesIndexPrefix op = false := by simpa [h] using hi
  obtain ⟨p, bytes, hp, hd⟩ := hl
  rw [he] at hp
  cases p with
  | none =>
    cases hp
    refine .indexed (congrArg _ he) ?_
    rw [decodeAfterIndex_ignored x rest hop]
    exact congrArg (Except.map _) hd
  | cb | ed | dd | fd | ddcb | fdcb =>
    cases hp
    nomatch hop

theorem wellFormed_of_ignoresPrefix {i : Instr} (h : i.ignoresPrefix = true) : i.wellFormed = true := by
  cases i with
  | ldXyRR | retn | nopEd2 | prefixIgnored => nomatch h
  | _ => rfl

/-- Every row of the table, by the space its opcode stands in. -/
theorem lastStep {i : Instr} (h : i.wellFormed = true) : LastStep i := by
  induction i with
  -- The unprefixed space.
  | ldMemNnHl nn | ldMemNnA nn | ldHlMemNn nn | ldAMemNn nn | jpNn nn | callNn nn =>
    exact ⟨.none, _, rfl, operandWord_low_high _ nn⟩
  | ldRpNn p nn => cases p <;> exact ⟨.none, _, rfl, operandWord_low_high _ nn⟩
  | jpCcNn cc nn | callCcNn cc nn => cases cc <;> exact ⟨.none, _, rfl, operandWord_low_high _ nn⟩
  | incRp p | decRp p | addHlRp p | popQq p | pushQq p => cases p <;> exact ⟨.none, _, rfl, rfl⟩
  | incR r | decR r | ldRN r | ldRMemHl r | ldMemHlR r | addAR r | adcAR r | subR r | sbcAR r | andR r | xorR r | orR r
  | cpR r => cases r <;> exact ⟨.none, _, rfl, rfl⟩
  | ldRR dst src => cases dst <;> cases src <;> exact ⟨.none, _, rfl, rfl⟩
  | jrCc cc | retCc cc => cases cc <;> exact ⟨.none, _, rfl, rfl⟩
  | rst t => cases t using octal <;> exact ⟨.none, _, rfl, rfl⟩
  | nop | ldMemBcA | ldMemDeA | ldAMemBc | ldAMemDe | incMemHl | decMemHl | ldMemHlN | rlca | rrca | rla | rra | daa | cpl
  | scf | ccf | exAfAf | djnz | jr | halt | addAMemHl | adcAMemHl | subMemHl | sbcAMemHl | andMemHl | xorMemHl | orMemHl
  | cpMemHl | addAN | adcAN | subN | sbcAN | andN | xorN | orN | cpN | ret | exx | jpHl | ldSpHl | outNA | inAN
  | exMemSpHl | exDeHl | di | ei | prefixCb | prefixDd | prefixEd | prefixFd => exact ⟨.none, _, rfl, rfl⟩
  -- The CB space.
  | rlcR r | rrcR r | rlR r | rrR r | slaR r | sraR r | sllR r | srlR r => cases r <;> exact ⟨.cb, _, rfl, rfl⟩
  | rlcMemHl | rrcMemHl | rlMemHl | rrMemHl | slaMemHl | sraMemHl | sllMemHl | srlMemHl => exact ⟨.cb, _, rfl, rfl⟩
  | bitR b r | resR b r | setR b r => cases b using octal <;> cases r <;> exact ⟨.cb, _, rfl, rfl⟩
  | bitMemHl b | resMemHl b | setMemHl b => cases b using octal <;> exact ⟨.cb, _, rfl, rfl⟩
  -- The ED space.
  | inRC r | outCR r => cases r <;> exact ⟨.ed, _, rfl, rfl⟩
  | sbcHlRp p | adcHlRp p => cases p <;> exact ⟨.ed, _, rfl, rfl⟩
  | ldMemNnRp p nn | ldRpMemNn p nn => cases p <;> exact ⟨.ed, _, rfl, operandWord_low_high _ nn⟩
  | neg y => cases y using octal <;> exact ⟨.ed, _, rfl, rfl⟩
  | retn y => cases y using octal with
    | d1 => nomatch h
    | d0 | d2 | d3 | d4 | d5 | d6 | d7 => exact ⟨.ed, _, rfl, rfl⟩
  | im0 y | im0Undoc y | im1 y | im2 y | nopEd7 y => exact ⟨.ed, _, rfl, by revert y; decide⟩
  | nopEd0 o | nopEd3 o => exact ⟨.ed, _, rfl, by revert o; decide⟩
  | nopEd2 o => exact ⟨.ed, _, rfl, by revert h; revert o; decide⟩
  | inC | outC0 | reti | ldIA | ldRA | ldAI | ldAR | rrd | rld | ldi | ldd | ldir | lddr | cpi | cpd | cpir | cpdr | ini
  | ind | inir | indr | outi | outd | otir | otdr => exact ⟨.ed, _, rfl, rfl⟩
  -- Behind DD and FD.
  | addXyRp x p => cases p <;> exact .indexed rfl rfl
  | ldXyNn x nn | ldMemNnXy x nn | ldXyMemNn x nn => exact .indexed rfl (operandWord_low_high _ nn)
  | incXyHalf x k | decXyHalf x k | ldXyHalfN x k | addAXyHalf x k | adcAXyHalf x k | subXyHalf x k | sbcAXyHalf x k
  | andXyHalf x k | xorXyHalf x k | orXyHalf x k | cpXyHalf x k => cases k <;> exact .indexed rfl rfl
  | ldRMemXy x r | ldMemXyR x r => cases r <;> exact .indexed rfl rfl
  | ldXyRR x dst src => cases dst with
    | xyh | xyl => cases src <;> exact .indexed rfl rfl
    | b | c | d | e | a => cases src with
      | xyh | xyl => exact .indexed rfl rfl
      | b | c | d | e | a => exact absurd h Bool.false_ne_true
  | incXy | decXy | incMemXy | decMemXy | ldMemXyN | addAMemXy | adcAMemXy | subMemXy | sbcAMemXy | andMemXy | xorMemXy
  | orMemXy | cpMemXy | popXy | exMemSpXy | pushXy | jpXy | ldSpXy
  | prefixXyCb | prefixDdReplaces | prefixEdReplaces | prefixFdReplaces => exact .indexed rfl rfl
  | prefixIgnored x i ih => exact (ih (wellFormed_of_ignoresPrefix h)).ignored x h
  -- Behind DD CB and FD CB.
  | rlcMemXyR x d r | rrcMemXyR x d r | rlMemXyR x d r | rrMemXyR x d r | slaMemXyR x d r | sraMemXyR x d r
  | sllMemXyR x d r | srlMemXyR x d r => cases r <;> exact .indexedCb rfl rfl
  | bitMemXyDup x d b r | resMemXyR x d b r | setMemXyR x d b r =>
    cases b using octal <;> cases r <;> exact .indexedCb rfl rfl
  | bitMemXy x d b | resMemXy x d b | setMemXy x d b => cases b using octal <;> exact .indexedCb rfl rfl
  | rlcMemXy | rrcMemXy | rlMemXy | rrMemXy | slaMemXy | sraMemXy | sllMemXy | srlMemXy => exact .indexedCb rfl rfl

/-- Settles O2: the steps of the prefixes lead to the last one, which decodes the instruction. -/
theorem decodeReadsBackEncode : Obligations.DecodeReadsBackEncode := by
  intro i h
  obtain ⟨p, bytes, he, hd⟩ := lastStep h
  rw [he, decodeBytes_of_decode hd]

/-! ### Ignored prefixes (R126) -/

/-- Of these instructions only the two port accesses can be refused. -/
theorem exec_next_of_ignoresPrefix {i : Instr} (s : State) (h : i.ignoresPrefix = true) (hin : ∀ n, i ≠ .inAN n)
    (hout : ∀ n, i ≠ .outNA n) : ∃ t, exec i s = .next t := by
  cases i with
  | inAN n => exact absurd rfl (hin n)
  | outNA n => exact absurd rfl (hout n)
  | nop | ldRpNn | ldMemBcA | ldMemDeA | ldMemNnA | incRp | decRp | incR | decR | ldRN | rlca | rrca | rla | rra | daa
  | cpl | scf | ccf | exAfAf | ldAMemBc | ldAMemDe | ldAMemNn | djnz | jr | jrCc | ldRR | halt | addAR | addAN | adcAR
  | adcAN | subR | subN | sbcAR | sbcAN | andR | andN | xorR | xorN | orR | orN | cpR | cpN | retCc | popQq | ret | exx
  | jpCcNn | jpNn | exDeHl | di | ei | callCcNn | pushQq | callNn | rst => exact ⟨_, rfl⟩
  | _ => nomatch h

/-- Settles O6: the decoder maps the unprefixed answer, and the meaning is the unprefixed one's. -/
theorem ignoredPrefixRunsUnprefixed : Obligations.IgnoredPrefixRunsUnprefixed := by
  constructor
  · intro op bytes rest i hop h
    have hp : takesIndexPrefix op = false := Bool.eq_false_iff.mpr (mt (takesIndexPrefix_iff op).mp hop)
    have hx (x : IndexReg) : decodeAfterIndex x op bytes = .ok (.prefixIgnored x i, rest) :=
      (decodeAfterIndex_ignored x bytes hp).trans (congrArg (Except.map _) h)
    exact ⟨hx .ix, hx .iy⟩
  · intro x i s h
    rw [exec_prefixIgnored, if_pos h]
    exact ⟨rfl, exec_next_of_ignoresPrefix s h⟩

/-! ### Words of the spec -/

/-- Settles O1: the words are closed, and the decoder evaluates. -/
theorem specWordsDecode : Obligations.SpecWordsDecode :=
  ⟨rfl, rfl, rfl, rfl, rfl, rfl, rfl, rfl, rfl, rfl, rfl, rfl, rfl, rfl, rfl⟩

/-! ### A step runs the instruction it decodes (R113; 48_ula.md R445) -/

theorem countsM1_iff (p : Pfx) : countsM1 p = true ↔ ¬(p = .ddcb ∨ p = .fdcb) := by
  cases p <;> decide

/-- The state a quiet step fetches in: the sampling point, at an instruction boundary, has cleared the EI block. -/
def State.sampled (s : State) : State :=
  { s with cpu := { s.cpu with eiBlock := if s.cpu.pfx = .none then false else s.cpu.eiBlock } }

theorem State.sampled_boundary {s : State} (h : s.cpu.pfx = .none) : s.sampled = s.setEiBlock false := by
  simp [State.sampled, State.setEiBlock, h]

theorem State.sampled_inside {s : State} (h : s.cpu.pfx ≠ .none) : s.sampled = s := by simp [State.sampled, h]

theorem State.eq_of_parts {s t : State} (hc : s.cpu = t.cpu) (hm : s.mem = t.mem) (hu : s.ula = t.ula)
    (ht : s.tape = t.tape) (he : s.env = t.env) : s = t := by
  cases s
  cases t
  simp_all

theorem State.sampled_afterFetch (s : State) (n : Nat) : s.sampled.afterFetch n = s.fetched n := by
  have hw : ∀ l, s.sampled.waits l = s.waits l := State.waits_congr (t := s.sampled) rfl rfl rfl
  refine State.eq_of_parts ?_ (State.afterFetch_mem _ _) (State.afterFetch_ula _ _) (State.afterFetch_tape _ _)
    (State.afterFetch_env _ _)
  rw [State.afterFetch_cpu, hw]
  simp [State.sampled, State.fetched, State.fetchAccesses, countsM1_iff, nextR_eq_refreshed, -not_or]

theorem State.quiet_iff (s : State) :
    s.quiet ↔ s.cpu.pfx ≠ .none ∨ s.cpu.nmiPending = false ∧ (s.cpu.iff1 && !s.cpu.eiBlock && s.intLine) = false := by
  have hl : s.intLine = (decide (s.env.interruptTact ≤ s.frameTact) &&
    decide (s.frameTact < s.env.interruptTact + 32)) := rfl
  simp [State.quiet, hl]

theorem cpuStep_of_quiet {s : State} (hh : s.cpu.halted = false) (hq : s.quiet) :
    cpuStep s = fetchAndExecute s.sampled := by
  by_cases hp : s.cpu.pfx = .none
  · obtain ⟨hn, hi⟩ := (s.quiet_iff.mp hq).resolve_left (· hp)
    rw [cpuStep_boundary hp, State.sampled_boundary hp]
    show (if s.cpu.nmiPending = true then _ else if (s.cpu.iff1 && !s.cpu.eiBlock && s.intLine) = true then _ else
      if s.cpu.halted = true then _ else fetchAndExecute (s.setEiBlock false)) = _
    simp [hn, hi, hh]
  · simp [cpuStep_inside hp, State.sampled_inside hp, runStep, hh]

/-- Settles O4: a quiet step fetches and executes, and the ULA's work follows. -/
theorem stepRunsDecodedInstruction : Obligations.StepRunsDecodedInstruction := by
  intro s i rest hh hq hd
  have hf : s.sampled.fetch = .next (i, s.fetched (3 - rest.length)) :=
    State.fetch_next.mpr ⟨rest, hd, (s.sampled_afterFetch _).symm⟩
  show andThen (cpuStep s) State.finishStep = _
  rw [cpuStep_of_quiet hh hq, fetchAndExecute, hf]
  show andThen (exec i _) State.finishStep = _
  cases exec i (s.fetched (3 - rest.length)) <;> rfl

end Sys2Proof.Machine
end

section
/-! PROOFS of the statements of 40_load_exchange.md. `SetsCpu.of_cpu`, `SetsByte.of_write` and `SetsWord.of_write16` say
how an instruction meets its frame from the state it ends in; a form that several instructions share (the block
operations of either direction, the store of A, the store of a word, the push, the exchange with the stack) meets it
once. -/

namespace Sys2Proof.Machine

/-! ### How a load, a store or an exchange meets its frame -/

/-- An instruction that changes the CPU alone. -/
theorem SetsCpu.of_cpu {i : Instr} {s : State} {cpu : Cpu} (h : exec i s = .next { s with cpu := cpu }) :
    SetsCpu i s cpu :=
  .of_next h rfl rfl rfl rfl rfl

/-- A `MemWrite` changes memory alone. -/
theorem State.memWrite_eq (s : State) (a : Word) (v : Byte) :
    s.memWrite a v = { s with mem := (s.memWrite a v).mem } := by
  unfold State.memWrite
  split <;> rfl

/-- A `MemWrite16` changes memory alone. -/
theorem State.memWrite16_eq (s : State) (a v : Word) :
    s.memWrite16 a v = { s with mem := (s.memWrite16 a v).mem } := by
  unfold State.memWrite16
  rw [State.memWrite_eq (s.memWrite a _), State.memWrite_eq s]

/-- An instruction that writes a byte, in a state `u` with the memory of `s`, and goes on with `f`: whatever the memory
after the write, `f` keeps it, and what it ends in has the devices of `s`. -/
theorem SetsByte.of_write {i : Instr} {s u : State} {cpu : Cpu} {a : Word} {v : Byte} (f : State → State)
    (h : exec i s = .next (f (u.memWrite a v))) (hu : u.mem = s.mem)
    (hf : ∀ m, f { u with mem := m } = { s with cpu := cpu, mem := m }) : SetsByte i s cpu a v := by
  rw [State.memWrite_eq, State.memWrite_mem_congr hu, hf] at h
  exact .of_next h rfl rfl rfl rfl rfl

/-- An instruction that writes a word and goes on with `f`. -/
theorem SetsWord.of_write16 {i : Instr} {s : State} {cpu : Cpu} {a v : Word} (f : State → State)
    (h : exec i s = .next (f (s.memWrite16 a v)))
    (hf : ∀ m, f { s with mem := m } = { s with cpu := cpu, mem := m }) : SetsWord i s cpu a v := by
  rw [State.memWrite16_eq, hf] at h
  exact .of_next h rfl (State.memWrite16_stored s a v) rfl rfl rfl

/-! ### Block search and transfer (40_load_exchange.md R240 to R247) -/

theorem Byte.sub_eq_zero (a v : Byte) : a - v = 0 ↔ a = v := by bv_omega

theorem Byte.sub_beq_zero (a v : Byte) : (a - v == 0) = decide (a = v) :=
  decide_eq_decide.mpr (Byte.sub_eq_zero a v)

theorem Word.sub_one_bne_zero (w : Word) : (w - 1 != 0) = decide (w ≠ 1) := by
  rw [decide_not, ← decide_eq_decide.mpr (Word.sub_one_eq_zero w)]
  rfl

/-- The half carry of a difference is the borrow into bit 4 (10_state.md R36): the sum `(a - v) + v` carries there where
`a - v` borrows. -/
theorem xor_sub_bit4 (a v : Byte) :
    (a ^^^ v ^^^ (a - v)).getLsbD 4 = decide (a.toNat % 16 < v.toNat % 16) := by
  have hsum := BitVec.getLsbD_add (i := 4) (by decide) (a - v) v
  have hborrow : BitVec.carry 4 (a - v) v false = decide (a.toNat % 16 < v.toNat % 16) := by
    have := a.isLt
    have := v.isLt
    simp only [BitVec.carry, BitVec.toNat_sub, Bool.toNat_false, decide_eq_decide]
    omega
  rw [BitVec.sub_add_cancel, hborrow] at hsum
  rw [BitVec.getLsbD_xor, BitVec.getLsbD_xor, hsum]
  cases (a - v).getLsbD 4 <;> cases v.getLsbD 4 <;> simp

/-- The flags of CPI and CPD by their meanings (R244). -/
theorem cpBlockF_bits (a v : Byte) (bc : Word) (f k : Byte)
    (hk : k = a - v - (if a.toNat % 16 < v.toNat % 16 then 1 else 0)) :
    FlagBits (cpBlockF a v (bc - 1) f) ((a - v).getLsbD 7) (decide (a = v)) (k.getLsbD 1)
      (decide (a.toNat % 16 < v.toNat % 16)) (k.getLsbD 3) (decide (bc ≠ 1)) true (f.getLsbD 0) := by
  have hk' : k = a - v - BitVec.ofNat 8 (decide (a.toNat % 16 < v.toNat % 16)).toNat := by
    rw [hk]
    split <;> simp [*]
  rw [hk', ← Byte.sub_beq_zero, ← Word.sub_one_bne_zero, ← xor_sub_bit4]
  exact mkF_bits _ _ _ _ _ _ _ _

/-- The flags of LDI and LDD by their meanings (R240). -/
theorem ldBlockF_bits (k : Byte) (bc : Word) (f : Byte) :
    FlagBits (ldBlockF k (bc - 1) f) (f.getLsbD 7) (f.getLsbD 6) (k.getLsbD 1) false (k.getLsbD 3) (decide (bc ≠ 1))
      false (f.getLsbD 0) := by
  rw [← Word.sub_one_bne_zero]
  exact mkF_bits _ _ _ _ _ _ _ _

theorem State.repeatBlock_eq (s : State) :
    s.repeatBlock = { s with cpu := { s.cpu with pc := s.cpu.pc - 2, memptr := s.cpu.pc - 2 + 1 } } := by
  rw [show s.cpu.pc - 2 + 1 = s.cpu.pc - 1 by bv_omega]
  rfl

section
variable {i : Instr} {s : State}

/-- CPIR and CPDR repeat while BC is not 0 after the decrement and the byte is not A (R245, R247). -/
theorem SetsCpu.of_cpBlockRepeat_ne (dir : Dir) (hi : exec i s = .next (cpBlockRepeat dir s))
    (h : s.bc ≠ 1 ∧ s.cpu.a ≠ s.mem.read s.hl.toNat) :
    SetsCpu i s
      { ((s.setHl (dir.move s.hl)).setBc (s.bc - 1)).cpu with
        f := cpBlockF s.cpu.a (s.mem.read s.hl.toNat) (s.bc - 1) s.cpu.f, pc := s.cpu.pc - 2, memptr := s.cpu.pc - 2 + 1
        tacts := s.after 17 [readAt s.hl] } := by
  rw [← (Word.sub_one_eq_zero _).ne, ← (Byte.sub_eq_zero _ _).ne, ← cpBlock_bc dir] at h
  have hs : cpBlockRepeat dir s = (cpBlock dir s).repeatBlock.charge 17 [readAt s.hl] := if_pos h
  rw [hs, State.repeatBlock_eq] at hi
  exact .of_cpu hi

/-- They end where BC is 0 after the decrement or the byte is A. -/
theorem SetsCpu.of_cpBlockRepeat_eq (dir : Dir) (hi : exec i s = .next (cpBlockRepeat dir s))
    (h : s.bc = 1 ∨ s.cpu.a = s.mem.read s.hl.toNat) :
    SetsCpu i s
      { ((s.setHl (dir.move s.hl)).setBc (s.bc - 1)).cpu with
        f := cpBlockF s.cpu.a (s.mem.read s.hl.toNat) (s.bc - 1) s.cpu.f, memptr := dir.move s.cpu.memptr
        tacts := s.after 12 [readAt s.hl] } := by
  rw [← Word.sub_one_eq_zero, ← Byte.sub_eq_zero, ← cpBlock_bc dir] at h
  have hs : cpBlockRepeat dir s = (cpBlock dir s).charge 12 [readAt s.hl] := if_neg fun hn => h.elim hn.1 hn.2
  rw [hs] at hi
  exact .of_cpu hi

/-- An instruction that moves a byte as LDI and LDD do (R240, R242) and goes on with `f`. -/
theorem SetsByte.of_ldBlock {cpu : Cpu} (dir : Dir) (f : State → State) (h : exec i s = .next (f (ldBlock dir s)))
    (hf : ∀ m,
      f { s with
        mem := m
        cpu := { (((s.setHl (dir.move s.hl)).setDe (dir.move s.de)).setBc (s.bc - 1)).cpu with
          f := ldBlockF (s.mem.read s.hl.toNat + s.cpu.a) (s.bc - 1) s.cpu.f } } = { s with cpu := cpu, mem := m }) :
    SetsByte i s cpu s.de (s.mem.read s.hl.toNat) :=
  .of_write (fun t => f ((((t.setHl (dir.move s.hl)).setDe (dir.move s.de)).setBc (s.bc - 1)).setF
    (ldBlockF (s.mem.read s.hl.toNat + s.cpu.a) (s.bc - 1) s.cpu.f))) h rfl hf

/-- LDIR and LDDR repeat while BC is not 0 after the decrement (R241, R243). -/
theorem SetsByte.of_ldBlockRepeat_ne (dir : Dir) (hi : exec i s = .next (ldBlockRepeat dir s)) (h : s.bc ≠ 1) :
    SetsByte i s
      { (((s.setHl (dir.move s.hl)).setDe (dir.move s.de)).setBc (s.bc - 1)).cpu with
        f := ldBlockF (s.mem.read s.hl.toNat + s.cpu.a) (s.bc - 1) s.cpu.f, pc := s.cpu.pc - 2
        memptr := s.cpu.pc - 2 + 1, tacts := s.after 17 [readAt s.hl, writeAt s.de] }
      s.de (s.mem.read s.hl.toNat) := by
  rw [← (Word.sub_one_eq_zero _).ne, ← ldBlock_bc dir] at h
  have hs : ldBlockRepeat dir s = (ldBlock dir s).repeatBlock.charge 17 [readAt s.hl, writeAt s.de] := if_pos h
  rw [hs] at hi
  refine .of_ldBlock dir (·.repeatBlock.charge 17 [readAt s.hl, writeAt s.de]) hi fun m => ?_
  rw [State.repeatBlock_eq]
  rfl

/-- They end where BC is 0 after the decrement. -/
theorem SetsByte.of_ldBlockRepeat_eq (dir : Dir) (hi : exec i s = .next (ldBlockRepeat dir s)) (h : s.bc = 1) :
    SetsByte i s
      { (((s.setHl (dir.move s.hl)).setDe (dir.move s.de)).setBc (s.bc - 1)).cpu with
        f := ldBlockF (s.mem.read s.hl.toNat + s.cpu.a) (s.bc - 1) s.cpu.f
        tacts := s.after 12 [readAt s.hl, writeAt s.de] }
      s.de (s.mem.read s.hl.toNat) := by
  rw [← Word.sub_one_eq_zero, ← ldBlock_bc dir] at h
  have hs : ldBlockRepeat dir s = (ldBlock dir s).charge 12 [readAt s.hl, writeAt s.de] := if_neg (· h)
  rw [hs] at hi
  exact .of_ldBlock dir (·.charge 12 [readAt s.hl, writeAt s.de]) hi fun _ => rfl

end

/-- Settles O13: the flags by `cpBlockF_bits`; a repeating form by what it does in each case. -/
theorem blockSearchIteration : Obligations.BlockSearchIteration := by
  rintro s v rfl
  exact ⟨_, _, rfl, cpBlockF_bits _ _ _ _ _ rfl, .of_cpu rfl, .of_cpu rfl,
    fun h => ⟨.of_cpBlockRepeat_ne .inc rfl h, .of_cpBlockRepeat_ne .dec rfl h⟩,
    fun h => ⟨.of_cpBlockRepeat_eq .inc rfl h, .of_cpBlockRepeat_eq .dec rfl h⟩⟩

/-- Settles O12: the flags by `ldBlockF_bits`; a repeating form by what it does in each case. -/
theorem blockTransferIteration : Obligations.BlockTransferIteration :=
  fun s => ⟨_, ldBlockF_bits _ _ _,
    .of_ldBlock .inc (·.charge 12 [readAt s.hl, writeAt s.de]) rfl fun _ => rfl,
    .of_ldBlock .dec (·.charge 12 [readAt s.hl, writeAt s.de]) rfl fun _ => rfl,
    fun h => ⟨.of_ldBlockRepeat_ne .inc rfl h, .of_ldBlockRepeat_ne .dec rfl h⟩,
    fun h => ⟨.of_ldBlockRepeat_eq .inc rfl h, .of_ldBlockRepeat_eq .dec rfl h⟩⟩

/-! ### 8-bit loads (R200 to R203, R208 to R210, R214 to R219) -/

/-- Settles O8: every form changes the CPU alone; the flags of LD A,I and LD A,R are those of their result. -/
theorem byteLoadForms : Obligations.ByteLoadForms := by
  refine ⟨fun s => ⟨fun dst src => ?_, fun r n => ?_, fun x dst src => ?_, fun x h n => ?_⟩,
    fun s => ⟨fun r => ?_, fun x r d => ?_, .of_cpu rfl, .of_cpu rfl, fun _ => .of_cpu rfl⟩,
    fun s => ⟨⟨_, mkF_result _ _ _ _ _, .of_cpu rfl⟩, ⟨_, mkF_result _ _ _ _ _, .of_cpu rfl⟩, .of_cpu rfl,
      .of_cpu rfl⟩⟩
  · cases dst <;> exact .of_cpu rfl
  · cases r <;> exact .of_cpu rfl
  · cases x <;> cases dst <;> exact .of_cpu rfl
  · cases x <;> cases h <;> exact .of_cpu rfl
  · cases r <;> exact .of_cpu rfl
  · cases r <;> exact .of_cpu rfl

/-! ### Stores (R204 to R207, R211 to R213, R226 to R228) -/

section
variable {i : Instr} {s : State}

/-- The stores of A (R211 to R213). -/
theorem SetsByte.of_storeATo {a : Word} {n : Nat} {lo : Byte} (h : exec i s = .next (storeATo a n s))
    (hlo : lowByte a = lo) :
    SetsByte i s { s.cpu with memptr := s.cpu.a ++ (lo + 1), tacts := s.after n [writeAt a] } a s.cpu.a := by
  have hlow : lowByte (a + 1) = lo + 1 := hlo ▸ lowByte_add_one a
  rw [← hlow]
  exact .of_write (fun t => (t.setMemptr (word s.cpu.a (lowByte (a + 1)))).charge n [writeAt a]) h rfl fun _ => rfl

/-- The stores of a word (R226 to R228). -/
theorem SetsWord.of_storeWord {nn v : Word} {n : Nat} (h : exec i s = .next (storeWord nn v n s)) :
    SetsWord i s { s.cpu with memptr := nn + 1, tacts := s.after n [writeAt nn, writeAt (nn + 1)] } nn v :=
  .of_write16 (fun t => (t.setMemptr (nn + 1)).charge n [writeAt nn, writeAt (nn + 1)]) h fun _ => rfl

end

/-- Settles O9: every form is a write and then a change of the CPU alone. -/
theorem storeForms : Obligations.StoreForms :=
  ⟨fun s => ⟨
      fun _ => .of_write (·.charge 7 [writeAt s.hl]) rfl rfl fun _ => rfl,
      fun _ => .of_write (·.charge 10 [writeAt s.hl]) rfl rfl fun _ => rfl,
      fun x _ d => .of_write (·.charge 15 [writeAt (s.indexAddress x d)]) rfl rfl fun _ => rfl,
      fun x d _ => .of_write (·.charge 15 [writeAt (s.indexAddress x d)]) rfl rfl fun _ => rfl,
      .of_storeATo rfl (lowByte_word _ _), .of_storeATo rfl (lowByte_word _ _), fun _ => .of_storeATo rfl rfl⟩,
    fun _ _ => ⟨.of_storeWord rfl, fun _ => .of_storeWord rfl, fun _ => .of_storeWord rfl⟩⟩

/-! ### 16-bit loads (R220, R221, R223 to R225, R229, R230) -/

/-- Settles O10: every form changes the CPU alone. -/
theorem loadWordForms : Obligations.LoadWordForms := by
  refine fun s => ⟨fun rp nn => ?_, fun x nn => ?_, fun nn => ?_, fun rp nn => ?_, fun x nn => ?_, .of_cpu rfl,
    fun _ => .of_cpu rfl⟩
  · cases rp <;> exact .of_cpu rfl
  · cases x <;> exact .of_cpu rfl
  · exact .of_next rfl (by simp [loadedWord, State.memRead16, State.memRead, State.after]) rfl rfl rfl rfl
  · cases rp <;> exact .of_cpu rfl
  · cases x <;> exact .of_cpu rfl

/-! ### Stack and exchanges (R222, R231 to R239) -/

section
variable {i : Instr} {s : State}

/-- The pushes (R222, R231, R232). -/
theorem SetsWord.of_push {v : Word} (h : exec i s = .next ((s.push v).charge 11 s.pushAccesses)) :
    SetsWord i s
      { s.cpu with sp := s.cpu.sp - 2, tacts := s.after 11 [writeAt (s.cpu.sp - 1), writeAt (s.cpu.sp - 2)] }
      (s.cpu.sp - 2) v :=
  .of_next h (by simp [State.after, State.pushAccesses]) (State.push_stored s v) (by simp) (by simp) (by simp)

/-- The exchanges with the word at SP (R238, R239); `f` loads the register. -/
theorem SetsWord.of_exchangeStack {v : Word} {cpu : Cpu} (f : State → State)
    (h : exec i s = .next (f (exchangeStack v s)))
    (hf : ∀ m,
      f { s with
        mem := m
        cpu := { s.cpu with
          memptr := s.mem.read (s.cpu.sp + 1).toNat ++ s.mem.read s.cpu.sp.toNat
          tacts := s.after 19
            [readAt s.cpu.sp, readAt (s.cpu.sp + 1), writeAt s.cpu.sp, writeAt (s.cpu.sp + 1)] } } =
        { s with cpu := cpu, mem := m }) :
    SetsWord i s cpu s.cpu.sp v :=
  .of_write16 (fun t => f ((t.setMemptr (s.memRead16 s.cpu.sp)).charge 19
    [readAt s.cpu.sp, readAt (s.cpu.sp + 1), writeAt s.cpu.sp, writeAt (s.cpu.sp + 1)])) h hf

end

/-- Settles O11: the pushes and the exchanges with the stack by their forms, the others change the CPU alone. -/
theorem stackAndExchangeForms : Obligations.StackAndExchangeForms := by
  refine ⟨fun s => ⟨fun _ => .of_push rfl, fun _ => .of_push rfl, fun q => ?_, fun x => ?_⟩,
    fun s => ⟨?_, .of_cpu rfl, .of_cpu rfl, ?_, fun x => ?_⟩⟩
  · cases q <;> exact .of_cpu rfl
  · cases x <;> exact .of_cpu rfl
  · exact .of_next rfl (by simp [State.hl, State.de, State.after]) rfl rfl rfl rfl
  · refine .of_exchangeStack (·.setHl (s.memRead16 s.cpu.sp)) rfl fun m => ?_
    simp [State.setHl, State.memRead16, State.memRead]
  · cases x <;> exact .of_exchangeStack (·.setXy _ (s.memRead16 s.cpu.sp)) rfl fun _ => rfl

end Sys2Proof.Machine
end

section
/-! PROOFS of the statements of 41_arith8.md. `add8_flags`, `sub8_flags`, `cpF_bits`, `logicF_flags`, `inc8_flags` and
`dec8_flags` say the flags of the rules' bit formulas by their meanings (10_state.md R36); `AluForms.of_op`,
`ModifyForms.of_op` and `ModifyHalf.of_op` carry them to every form. -/

namespace Sys2Proof.Machine

/-! ### Half carry and overflow (10_state.md R36) -/

/-- Bit 4 of the operands and of their sum tells the carry out of bit 3, the carry in included. -/
theorem xor_sum_bit4 {x y z : Byte} {c : Bool} (hz : z.toNat = (x.toNat + y.toNat + c.toNat) % 256) :
    (x ^^^ y ^^^ z).getLsbD 4 = decide (15 < x.toNat % 16 + y.toNat % 16 + c.toNat) := by
  have hsum : z = x + y + BitVec.setWidth 8 (BitVec.ofBool c) :=
    BitVec.eq_of_toNat_eq (by cases c <;> simp [hz])
  have hcarry : BitVec.carry 4 x y c = decide (15 < x.toNat % 16 + y.toNat % 16 + c.toNat) := by
    simp only [BitVec.carry, decide_eq_decide]
    omega
  rw [BitVec.getLsbD_xor, BitVec.getLsbD_xor, hsum, BitVec.getLsbD_add_add_bool (by decide), hcarry]
  cases x.getLsbD 4 <;> cases y.getLsbD 4 <;> simp

/-- A sum overflows where both operands have one sign and the result the other. -/
theorem outOfRange_add {x y z : Byte} {c : Bool} (hz : z.toNat = (x.toNat + y.toNat + c.toNat) % 256) :
    outOfRange 8 (x.toInt + y.toInt + c.toNat) = (x.getLsbD 7 == y.getLsbD 7 && z.getLsbD 7 != x.getLsbD 7) := by
  have hc := c.toNat_lt
  rw [Bool.eq_iff_iff]
  simp only [outOfRange, getLsbD_seven, BitVec.toInt_eq_toNat_cond, decide_eq_true_eq,
    Bool.and_eq_true, beq_iff_eq, bne_iff_ne, decide_eq_decide, ne_eq]
  omega

/-- A difference overflows where the operands have different signs and the result not that of the first. -/
theorem outOfRange_sub {x y z : Byte} {c : Bool} (hz : z.toNat = (256 + x.toNat - y.toNat - c.toNat) % 256) :
    outOfRange 8 (x.toInt - y.toInt - c.toNat) = (x.getLsbD 7 != y.getLsbD 7 && z.getLsbD 7 != x.getLsbD 7) := by
  have hc := c.toNat_lt
  rw [Bool.eq_iff_iff]
  simp only [outOfRange, getLsbD_seven, BitVec.toInt_eq_toNat_cond, decide_eq_true_eq,
    Bool.and_eq_true, bne_iff_ne, decide_eq_decide, ne_eq]
  omega

/-! ### Sums and differences (R261 to R264) -/

/-- The flags of ADD and ADC by their meanings. -/
theorem add8_flags (a v : Byte) (c : Bool) :
    ResultFlags (add8 a v c).2 (add8 a v c).1 (decide (15 < a.toNat % 16 + v.toNat % 16 + c.toNat))
      (outOfRange 8 (a.toInt + v.toInt + c.toNat)) false (decide (255 < a.toNat + v.toNat + c.toNat)) := by
  have hres : (add8 a v c).1.toNat = (a.toNat + v.toNat + c.toNat) % 256 := BitVec.toNat_ofNat _ _
  rw [← xor_sum_bit4 hres, outOfRange_add hres]
  exact mkF_result _ _ _ _ _

theorem sub8_toNat (a v : Byte) (c : Bool) :
    (sub8 a v c).1.toNat = (256 + a.toNat - v.toNat - c.toNat) % 256 := by
  have hc := c.toNat_lt
  have ha := a.isLt
  have hv := v.isLt
  simp only [sub8, BitVec.toNat_sub, BitVec.toNat_ofNat]
  omega

theorem sub8_eq_ofNat (a v : Byte) (c : Bool) :
    (sub8 a v c).1 = BitVec.ofNat 8 (256 + a.toNat - v.toNat - c.toNat) :=
  BitVec.eq_of_toNat_eq (by rw [sub8_toNat, BitVec.toNat_ofNat])

/-- The flags of SUB and SBC by their meanings: the half borrow is the carry of the sum that gives A back. -/
theorem sub8_flags (a v : Byte) (c : Bool) :
    ResultFlags (sub8 a v c).2 (sub8 a v c).1 (decide (a.toNat % 16 < v.toNat % 16 + c.toNat))
      (outOfRange 8 (a.toInt - v.toInt - c.toNat)) true (decide (a.toNat < v.toNat + c.toNat)) := by
  have hres := sub8_toNat a v c
  have hborrow : (a ^^^ v ^^^ (sub8 a v c).1).getLsbD 4 = decide (a.toNat % 16 < v.toNat % 16 + c.toNat) := by
    have hc := c.toNat_lt
    have hback : a.toNat = ((sub8 a v c).1.toNat + v.toNat + c.toNat) % 256 := by omega
    rw [show a ^^^ v ^^^ (sub8 a v c).1 = (sub8 a v c).1 ^^^ v ^^^ a by ac_rfl, xor_sum_bit4 hback, decide_eq_decide]
    omega
  rw [← hborrow, outOfRange_sub hres]
  exact mkF_result _ _ _ _ _

/-- Without a carry in, the difference is that of the bytes. -/
theorem sub8_false (a v : Byte) : (sub8 a v false).1 = a - v := BitVec.sub_zero _

/-- The flags of CP by their meanings: those of SUB, but Y and X from the operand (R268). -/
theorem cpF_bits (a v : Byte) :
    FlagBits (cpF a v) ((a - v).getLsbD 7) (decide (a = v)) (v.getLsbD 5) (decide (a.toNat % 16 < v.toNat % 16))
      (v.getLsbD 3) (outOfRange 8 (a.toInt - v.toInt)) true (decide (a.toNat < v.toNat)) := by
  obtain ⟨hs, hz, -, hh, -, hpv, hn, hc⟩ := sub8_flags a v false
  rw [← getLsbD_seven, sub8_false] at hs
  rw [← beq_zero, sub8_false, Byte.sub_beq_zero] at hz
  rw [Bool.toNat_false, Nat.cast_zero, Int.sub_zero] at hpv
  simp only [cpF, flagS, flagZ, flagH, flagPV, flagN, flagC, hs, hz, hh, hpv, hn, hc]
  exact mkF_bits _ _ _ _ _ _ _ _

/-- Settles O14: the flags by `add8_flags`, ADD being ADC with no carry in. -/
theorem addAndAdcAllForms : Obligations.AddAndAdcAllForms := by
  refine ⟨.of_op .add (fun _ _ => rfl) (fun _ _ => rfl) (fun _ => rfl) (fun _ _ _ => rfl) (fun _ _ _ => rfl)
      fun a _ v => ⟨rfl, ?_⟩,
    .of_op .adc (fun _ _ => rfl) (fun _ _ => rfl) (fun _ => rfl) (fun _ _ _ => rfl) (fun _ _ _ => rfl)
      fun a f v => ⟨rfl, add8_flags a v (f.getLsbD 0)⟩⟩
  simpa [aluResult] using add8_flags a v false

/-- Settles O15: the result by `sub8_eq_ofNat`, the flags by `sub8_flags` and `cpF_bits`. -/
theorem subSbcAndCpAllForms : Obligations.SubSbcAndCpAllForms := by
  refine ⟨.of_op .sub (fun _ _ => rfl) (fun _ _ => rfl) (fun _ => rfl) (fun _ _ _ => rfl) (fun _ _ _ => rfl)
      fun a _ v => ⟨sub8_eq_ofNat a v false, ?_⟩,
    .of_op .sbc (fun _ _ => rfl) (fun _ _ => rfl) (fun _ => rfl) (fun _ _ _ => rfl) (fun _ _ _ => rfl)
      fun a f v => ⟨sub8_eq_ofNat a v (f.getLsbD 0), sub8_flags a v (f.getLsbD 0)⟩,
    .of_op .cp (fun _ _ => rfl) (fun _ _ => rfl) (fun _ => rfl) (fun _ _ _ => rfl) (fun _ _ _ => rfl)
      fun a _ v => ⟨rfl, cpF_bits a v⟩⟩
  simpa [aluResult] using sub8_flags a v false

/-! ### Logic (R265 to R267) -/

/-- The flags of a logical result: the parity is the counted one. -/
theorem logicF_flags (res : Byte) (h : Bool) : ResultFlags (logicF res h) res h (evenOnes res) false false := by
  rw [evenOnes_eq_parity]
  exact mkF_result _ _ _ _ _

/-- Settles O16: the result bit by bit, the flags by `logicF_flags`. -/
theorem logicAllForms : Obligations.LogicAllForms :=
  ⟨.of_op .and (fun _ _ => rfl) (fun _ _ => rfl) (fun _ => rfl) (fun _ _ _ => rfl) (fun _ _ _ => rfl)
      fun _ _ _ => ⟨fun _ => BitVec.getLsbD_and, logicF_flags _ _⟩,
    .of_op .xor (fun _ _ => rfl) (fun _ _ => rfl) (fun _ => rfl) (fun _ _ _ => rfl) (fun _ _ _ => rfl)
      fun _ _ _ => ⟨fun _ => BitVec.getLsbD_xor, logicF_flags _ _⟩,
    .of_op .or (fun _ _ => rfl) (fun _ _ => rfl) (fun _ => rfl) (fun _ _ _ => rfl) (fun _ _ _ => rfl)
      fun _ _ _ => ⟨fun _ => BitVec.getLsbD_or, logicF_flags _ _⟩⟩

/-! ### INC and DEC (R270 to R277) -/

/-- The result and the flags of INC by their meanings. -/
theorem inc8_flags (v f : Byte) :
    (inc8 v f).1 = BitVec.ofNat 8 (v.toNat + 1) ∧
      ResultFlags (inc8 v f).2 (inc8 v f).1 (decide (15 < v.toNat % 16 + 1)) (outOfRange 8 (v.toInt + 1)) false
        (f.getLsbD 0) := by
  have hh : (v.extractLsb' 0 4 == 0xF#4) = decide (15 < v.toNat % 16 + 1) := by
    revert v
    decide
  have hpv : (v == 0x7F) = outOfRange 8 (v.toInt + 1) := by
    revert v
    decide
  rw [← hh, ← hpv]
  exact ⟨BitVec.eq_of_toNat_eq (by simp [inc8]), mkF_result _ _ _ _ _⟩

/-- The result and the flags of DEC by their meanings. -/
theorem dec8_flags (v f : Byte) :
    (dec8 v f).1 = BitVec.ofNat 8 (v.toNat + 255) ∧
      ResultFlags (dec8 v f).2 (dec8 v f).1 (decide (v.toNat % 16 < 1)) (outOfRange 8 (v.toInt - 1)) true
        (f.getLsbD 0) := by
  have hh : (v.extractLsb' 0 4 == 0#4) = decide (v.toNat % 16 < 1) := by
    revert v
    decide
  have hpv : (v == 0x80) = outOfRange 8 (v.toInt - 1) := by
    revert v
    decide
  rw [← hh, ← hpv]
  exact ⟨BitVec.eq_of_toNat_eq (by simp [dec8, Nat.add_comm]), mkF_result _ _ _ _ _⟩

/-- Settles O17: every form by its operation, `inc8_flags` and `dec8_flags`. -/
theorem incrementDecrementAllForms : Obligations.IncrementDecrementAllForms :=
  ⟨.of_op inc8 (fun _ _ => rfl) (fun _ => rfl) (fun _ _ _ => rfl) inc8_flags,
    .of_op inc8 (fun _ _ _ => rfl) inc8_flags,
    .of_op dec8 (fun _ _ => rfl) (fun _ => rfl) (fun _ _ _ => rfl) dec8_flags,
    .of_op dec8 (fun _ _ _ => rfl) dec8_flags⟩

end Sys2Proof.Machine
end

section
/-! PROOFS of the statements of 42_general_control.md. `daaResult_adjusts` says DAA's bit formula by the correction of
its rule as a number; `daaCorrection_bcd` is why that correction gives decimal sums. -/

namespace Sys2Proof.Machine

/-! ### DAA (R290) -/

/-- The correction of R290 as a number, from A, H and C. -/
def daaCorrection (a : Nat) (h c : Bool) : Nat :=
  (if h = true ∨ 9 < a % 16 then 6 else 0) + (if c = true ∨ 0x99 < a then 0x60 else 0)

/-- The number whose hexadecimal digits are the two decimal digits of `n`. -/
def bcd (n : Nat) : Nat := n / 10 * 16 + n % 10

theorem bcd_toNat {n : Nat} (hn : n < 100) : (BitVec.ofNat 8 (bcd n)).toNat = bcd n := by
  rw [BitVec.toNat_ofNat]
  unfold bcd
  omega

theorem bcd_mod (n : Nat) : bcd n % 16 = n % 10 := by
  unfold bcd
  omega

theorem lowNibble_toNat (a : Byte) : (a &&& 0x0F).toNat = a.toNat % 16 :=
  (BitVec.toNat_and ..).trans (Nat.and_two_pow_sub_one_eq_mod a.toNat 4)

/-- The rule's `diff`: its two parts share no bit, so their OR is their sum. -/
theorem daaDiff_eq_correction (a : Nat) (h c : Bool) :
    ((if h || decide (9 < a % 16) then 0x06 else 0x00) ||| (if c || decide (0x99 < a) then 0x60 else 0x00) : Byte) =
      BitVec.ofNat 8 (daaCorrection a h c) := by
  simp only [daaCorrection, Bool.or_eq_true, decide_eq_true_eq]
  split <;> split <;> rfl

/-- Adding or subtracting a correction `d` to or from a byte, on naturals. -/
theorem Byte.addSub_ofNat (a : Byte) {d : Nat} (hd : d < 256) (n : Bool) :
    (if n then a - BitVec.ofNat 8 d else a + BitVec.ofNat 8 d) =
      BitVec.ofNat 8 (if n = false then a.toNat + d else 256 + a.toNat - d) := by
  cases n
  · exact BitVec.eq_of_toNat_eq (by simp)
  · exact BitVec.eq_of_toNat_eq (by simp; omega)

theorem daaCorrection_lt (a : Nat) (h c : Bool) : daaCorrection a h c < 256 := by
  unfold daaCorrection
  split <;> split <;> decide

/-- The result and the flags of DAA by their meanings. -/
theorem daaResult_adjusts (a f : Byte) :
    (daaResult a f).1 =
        BitVec.ofNat 8 (if f.getLsbD 1 = false then a.toNat + daaCorrection a.toNat (f.getLsbD 4) (f.getLsbD 0)
          else 256 + a.toNat - daaCorrection a.toNat (f.getLsbD 4) (f.getLsbD 0)) ∧
      ResultFlags (daaResult a f).2 (daaResult a f).1
        (if f.getLsbD 1 = false then decide (9 < a.toNat % 16) else f.getLsbD 4 && decide (a.toNat % 16 < 6))
        (evenOnes (daaResult a f).1) (f.getLsbD 1) (f.getLsbD 0 || decide (0x99 < a.toNat)) := by
  constructor
  · rw [← Byte.addSub_ofNat a (daaCorrection_lt ..), ← daaDiff_eq_correction, ← lowNibble_toNat]
    rfl
  · have hh : (if f.getLsbD 1 = false then decide (9 < a.toNat % 16) else f.getLsbD 4 && decide (a.toNat % 16 < 6)) =
        if flagN f then flagH f && decide ((a &&& 0x0F).toNat < 6) else decide (9 < (a &&& 0x0F).toNat) := by
      rw [lowNibble_toNat, flagN, flagH]
      cases f.getLsbD 1 <;> rfl
    rw [evenOnes_eq_parity, hh]
    exact mkF_result _ _ _ _ _

/-- What DAA makes of A and F, and its frame. -/
theorem daa_setsCpu (s : State) :
    SetsCpu .daa s { s.cpu with
      a := (daaResult s.cpu.a s.cpu.f).1, f := (daaResult s.cpu.a s.cpu.f).2, tacts := s.after 4 [] } :=
  .of_cpu rfl

/-- Why DAA works: the correction of a sum of two BCD bytes carries from each digit exactly where the decimal sum
does. -/
theorem daaCorrection_bcd {x y t : Nat} {h c : Bool} (hx : x < 100) (hy : y < 100) (ht : t = bcd x + bcd y)
    (hh : h = decide (15 < x % 10 + y % 10)) (hc : c = decide (255 < t)) :
    (t % 256 + daaCorrection (t % 256) h c) % 256 = (x + y) / 10 % 10 * 16 + (x + y) % 10 ∧
      (c = true ∨ 0x99 < t % 256 ↔ 100 ≤ x + y) := by
  subst hh hc
  unfold bcd at ht
  simp only [daaCorrection, decide_eq_true_eq]
  have hlow : (15 < x % 10 + y % 10 ∨ 9 < t % 256 % 16) ↔ 10 ≤ x % 10 + y % 10 := by omega
  have hhigh : (255 < t ∨ 0x99 < t % 256) ↔ 100 ≤ x + y := by omega
  have hunits : (x + y) % 10 + (if 10 ≤ x % 10 + y % 10 then 10 else 0) = x % 10 + y % 10 := by
    split <;> omega
  have htens : (x + y) / 10 % 10 + (if 100 ≤ x + y then 10 else 0) =
      x / 10 + y / 10 + if 10 ≤ x % 10 + y % 10 then 1 else 0 := by
    split <;> split <;> omega
  refine ⟨?_, hhigh⟩
  rw [Nat.mod_add_mod]
  simp only [hlow, hhigh]
  split_ifs at hunits htens ⊢ <;> omega

/-- DAA on a sum of two BCD bytes, with the flags ADD gives it: the decimal sum and its carry. -/
theorem daaResult_bcd {x y : Nat} {a f : Byte} (hx : x < 100) (hy : y < 100) (ha : a = BitVec.ofNat 8 (bcd x + bcd y))
    (hn : f.getLsbD 1 = false) (hh : f.getLsbD 4 = decide (15 < x % 10 + y % 10))
    (hc : f.getLsbD 0 = decide (255 < bcd x + bcd y)) :
    (daaResult a f).1 = BitVec.ofNat 8 ((x + y) / 10 % 10 * 16 + (x + y) % 10) ∧
      (daaResult a f).2.getLsbD 0 = decide (100 ≤ x + y) := by
  obtain ⟨hres, -, -, -, -, -, -, -, hcarry⟩ := daaResult_adjusts a f
  obtain ⟨hsum, hiff⟩ := daaCorrection_bcd hx hy rfl hh hc
  have haNat : a.toNat = (bcd x + bcd y) % 256 := ha ▸ BitVec.toNat_ofNat _ _
  constructor
  · apply BitVec.eq_of_toNat_eq
    rw [hres, if_pos hn, haNat, BitVec.toNat_ofNat, hsum, BitVec.toNat_ofNat]
    omega
  · rw [hcarry, haNat, Bool.eq_iff_iff, Bool.or_eq_true, decide_eq_true_iff, decide_eq_true_iff, hiff]

/-- Settles O19: the adjustment by `daaResult_adjusts`; the decimal sum by `daaResult_bcd` on what ADD A,n (O14)
leaves. -/
theorem decimalAdjust : Obligations.DecimalAdjust := by
  constructor
  · rintro s _ _ _ rfl rfl rfl
    obtain ⟨hres, hflags⟩ := daaResult_adjusts s.cpu.a s.cpu.f
    exact ⟨_, _, _, rfl, hres, hflags, daa_setsCpu s⟩
  · intro s x y hx hy ha
    change s.cpu.a = BitVec.ofNat 8 (bcd x) at ha
    obtain ⟨hadd, -⟩ := addAndAdcAllForms
    obtain ⟨-, himmediate, -⟩ := hadd s
    obtain ⟨a, f, ⟨hsum, hflags⟩, s1, hexec, hcpu, -⟩ := himmediate (BitVec.ofNat 8 (bcd y))
    rw [ha, bcd_toNat hx, bcd_toNat hy] at hsum hflags
    obtain ⟨-, -, -, hh, -, -, hn, hc⟩ := hflags
    rw [bcd_mod, bcd_mod] at hh
    obtain ⟨s2, hdaa, hcpu', -⟩ := daa_setsCpu s1
    refine ⟨s1, s2, hexec, hdaa, ?_⟩
    rw [hcpu', hcpu]
    exact daaResult_bcd hx hy hsum hn hh hc

/-! ### CPL, NEG, CCF and SCF (R291 to R294) -/

/-- The result and the flags of NEG by their meanings: those of SUB of A from 0. -/
theorem neg_flags (a : Byte) :
    (sub8 0 a false).1 = BitVec.ofNat 8 (256 - a.toNat) ∧
      ResultFlags (sub8 0 a false).2 (sub8 0 a false).1 (decide (a.toNat % 16 ≠ 0)) (decide (a = 0x80)) true
        (decide (a ≠ 0)) := by
  have hh : decide (a.toNat % 16 ≠ 0) = decide ((0 : Byte).toNat % 16 < a.toNat % 16 + false.toNat) := by
    simp [Nat.pos_iff_ne_zero]
  have hpv : decide (a = 0x80) = outOfRange 8 ((0 : Byte).toInt - a.toInt - false.toNat) := by
    revert a
    decide
  have hc : decide (a ≠ 0) = decide ((0 : Byte).toNat < a.toNat + false.toNat) :=
    decide_eq_decide.mpr (by bv_omega)
  rw [hh, hpv, hc]
  exact ⟨sub8_eq_ofNat 0 a false, sub8_flags 0 a false⟩

/-- The flags of CPL by their meanings: Y and X are the complements of A's bits. -/
theorem cplF_bits (a f : Byte) :
    FlagBits (cplF (a ^^^ 0xFF) f) (f.getLsbD 7) (f.getLsbD 6) (!a.getLsbD 5) true (!a.getLsbD 3) (f.getLsbD 2) true
      (f.getLsbD 0) := by
  have hbit (j : Nat) (hj : j < 8) : (!a.getLsbD j) = (a ^^^ 0xFF).getLsbD j := by
    rw [show a ^^^ 0xFF = ~~~a from BitVec.xor_allOnes, BitVec.getLsbD_not, decide_eq_true hj, Bool.true_and]
  rw [hbit 5 (by decide), hbit 3 (by decide)]
  exact mkF_bits _ _ _ _ _ _ _ _

/-- Settles O18: CPL by `cplF_bits`, NEG by `neg_flags`; CCF and SCF give their flags bit by bit. -/
theorem accumulatorFlagInstructions : Obligations.AccumulatorFlagInstructions := by
  intro s
  refine ⟨⟨_, cplF_bits _ _, .of_cpu ?_⟩, fun y => ?_, ⟨_, mkF_bits _ _ _ _ _ _ _ _, .of_cpu rfl⟩,
    _, mkF_bits _ _ _ _ _ _ _ _, .of_cpu rfl⟩
  · rw [show s.cpu.a ^^^ 0xFF = ~~~s.cpu.a from BitVec.xor_allOnes]
    rfl
  · obtain ⟨hres, hflags⟩ := neg_flags s.cpu.a
    rw [← hres]
    exact ⟨_, hflags, .of_cpu rfl⟩

/-! ### Control (R295 to R303) -/

/-- Settles O20: each of the twelve instructions changes the CPU alone, in the fields its rule names. -/
theorem controlInstructions : Obligations.ControlInstructions := fun _ =>
  ⟨.of_cpu rfl, .of_cpu rfl, .of_cpu rfl, .of_cpu rfl, fun _ => .of_cpu rfl, fun _ => .of_cpu rfl,
    fun _ => .of_cpu rfl, fun _ => .of_cpu rfl, fun _ => .of_cpu rfl, fun _ => .of_cpu rfl, fun _ => .of_cpu rfl,
    fun _ => .of_cpu rfl⟩

end Sys2Proof.Machine
end

section
/-! PROOFS of the statements of 43_arith16.md. The half carry and the signed overflow are said for every width by
`getLsbD_xor_xor_sum`, `outOfRange_sum` and `outOfRange_difference`; `add16_flags`, `adc16_flags` and `sbc16_flags` give
the flags of the rules' bit formulas by their meanings (10_state.md R36). -/

namespace Sys2Proof.Machine

/-! ### Carries and overflow at any width (10_state.md R36) -/

section
variable {w : Nat} {x y z : BitVec w} {c : Bool}

/-- A sum with carry wraps at most once. -/
theorem toNat_sum_cases (hz : z.toNat = (x.toNat + y.toNat + c.toNat) % 2 ^ w) :
    z.toNat = x.toNat + y.toNat + c.toNat ∨ z.toNat + 2 ^ w = x.toNat + y.toNat + c.toNat := by
  have hc := c.toNat_lt
  have hx := x.isLt
  have hy := y.isLt
  by_cases h : x.toNat + y.toNat + c.toNat < 2 ^ w
  · exact .inl (hz.trans (Nat.mod_eq_of_lt h))
  · rw [Nat.mod_eq_sub_mod (Nat.le_of_not_lt h), Nat.mod_eq_of_lt (by omega)] at hz
    omega

/-- A bit of the operands and of their sum tells the carry into that bit. -/
theorem getLsbD_xor_xor_sum {i : Nat} (hi : i < w) (hz : z.toNat = (x.toNat + y.toNat + c.toNat) % 2 ^ w) :
    (x ^^^ y ^^^ z).getLsbD i = BitVec.carry i x y c := by
  have hsum : z = x + y + BitVec.setWidth w (BitVec.ofBool c) :=
    BitVec.eq_of_toNat_eq (by cases c <;> simp [hz])
  rw [BitVec.getLsbD_xor, BitVec.getLsbD_xor, hsum, BitVec.getLsbD_add_add_bool hi]
  cases x.getLsbD i <;> cases y.getLsbD i <;> simp

theorem outOfRange_succ (n : Nat) (t : Int) :
    outOfRange (n + 1) t = decide (t < -((2 ^ n : Nat) : Int) ∨ ((2 ^ n : Nat) : Int) ≤ t) := by
  rw [Nat.cast_pow]
  rfl

/-- A sum overflows where both operands have one sign and the result the other. -/
theorem outOfRange_sum (hw : 0 < w) (hz : z.toNat = (x.toNat + y.toNat + c.toNat) % 2 ^ w) :
    outOfRange w (x.toInt + y.toInt + c.toNat) = (x.msb == y.msb && z.msb != x.msb) := by
  have hcases := toNat_sum_cases hz
  have hc := c.toNat_lt
  have hx := x.isLt
  have hy := y.isLt
  obtain ⟨n, rfl⟩ := Nat.exists_eq_add_one.mpr hw
  obtain ⟨m, hm⟩ : ∃ m, 2 ^ n = m := ⟨_, rfl⟩
  rw [Bool.eq_iff_iff]
  simp only [outOfRange_succ, BitVec.msb_eq_decide, BitVec.toInt_eq_toNat_cond, decide_eq_true_eq, Bool.and_eq_true,
    beq_iff_eq, bne_iff_ne, decide_eq_decide, ne_eq, Nat.add_sub_cancel, Nat.pow_succ, hm] at hcases hx hy ⊢
  omega

/-- A difference overflows where the operands have different signs and the result not that of the first; `hx` says it
as the sum that gives the first back. -/
theorem outOfRange_difference (hw : 0 < w) (hx : x.toNat = (z.toNat + y.toNat + c.toNat) % 2 ^ w) :
    outOfRange w (x.toInt - y.toInt - c.toNat) = (x.msb != y.msb && z.msb != x.msb) := by
  have hcases := toNat_sum_cases hx
  have hc := c.toNat_lt
  have hz := z.isLt
  have hy := y.isLt
  obtain ⟨n, rfl⟩ := Nat.exists_eq_add_one.mpr hw
  obtain ⟨m, hm⟩ : ∃ m, 2 ^ n = m := ⟨_, rfl⟩
  rw [Bool.eq_iff_iff]
  simp only [outOfRange_succ, BitVec.msb_eq_decide, BitVec.toInt_eq_toNat_cond, decide_eq_true_eq, Bool.and_eq_true,
    bne_iff_ne, decide_eq_decide, ne_eq, Nat.add_sub_cancel, Nat.pow_succ, hm] at hcases hz hy ⊢
  omega

end

/-! ### Sums and differences (R310 to R313) -/

/-- The flags of ADD by their meanings; S, Z and P/V are kept. -/
theorem add16_flags (x v : Word) (f : Byte) :
    FlagBits (add16 x v f).2 (f.getLsbD 7) (f.getLsbD 6) ((add16 x v f).1.getLsbD 13)
      (decide (4095 < x.toNat % 4096 + v.toNat % 4096)) ((add16 x v f).1.getLsbD 11) (f.getLsbD 2) false
      (decide (65535 < x.toNat + v.toNat)) := by
  have hh : (x ^^^ v ^^^ (add16 x v f).1).getLsbD 12 = decide (4095 < x.toNat % 4096 + v.toNat % 4096) :=
    getLsbD_xor_xor_sum (c := false) (by decide) (BitVec.toNat_ofNat _ _)
  rw [← hh]
  exact mkF_bits _ _ _ _ _ _ _ _

theorem Word.beq_zero (v : Word) : (v == 0) = decide (v.toNat = 0) :=
  decide_eq_decide.mpr (BitVec.toNat_inj (y := 0)).symm

/-- The flags of ADC by their meanings. -/
theorem adc16_flags (x v : Word) (f : Byte) :
    FlagBits (adc16 x v f).2 ((adc16 x v f).1.getLsbD 15) (decide ((adc16 x v f).1.toNat = 0))
      ((adc16 x v f).1.getLsbD 13) (decide (4095 < x.toNat % 4096 + v.toNat % 4096 + (f.getLsbD 0).toNat))
      ((adc16 x v f).1.getLsbD 11) (outOfRange 16 (x.toInt + v.toInt + (f.getLsbD 0).toNat)) false
      (decide (65535 < x.toNat + v.toNat + (f.getLsbD 0).toNat)) := by
  have hres : (adc16 x v f).1.toNat = (x.toNat + v.toNat + (f.getLsbD 0).toNat) % 2 ^ 16 := BitVec.toNat_ofNat _ _
  have hh : (x ^^^ v ^^^ (adc16 x v f).1).getLsbD 12 =
      decide (4095 < x.toNat % 4096 + v.toNat % 4096 + (f.getLsbD 0).toNat) :=
    getLsbD_xor_xor_sum (by decide) hres
  rw [← hh, outOfRange_sum (by decide) hres, ← Word.beq_zero]
  exact mkF_bits _ _ _ _ _ _ _ _

theorem sbc16_toNat (x v : Word) (f : Byte) :
    (sbc16 x v f).1.toNat = (65536 + x.toNat - v.toNat - (f.getLsbD 0).toNat) % 65536 := by
  have hc := (f.getLsbD 0).toNat_lt
  have hx := x.isLt
  have hv := v.isLt
  simp only [sbc16, flagC, BitVec.toNat_sub, BitVec.toNat_ofNat]
  omega

theorem sbc16_eq_ofNat (x v : Word) (f : Byte) :
    (sbc16 x v f).1 = BitVec.ofNat 16 (65536 + x.toNat - v.toNat - (f.getLsbD 0).toNat) :=
  BitVec.eq_of_toNat_eq (by rw [sbc16_toNat, BitVec.toNat_ofNat])

/-- The flags of SBC by their meanings: the half borrow is the carry of the sum that gives HL back. -/
theorem sbc16_flags (x v : Word) (f : Byte) :
    FlagBits (sbc16 x v f).2 ((sbc16 x v f).1.getLsbD 15) (decide ((sbc16 x v f).1.toNat = 0))
      ((sbc16 x v f).1.getLsbD 13) (decide (x.toNat % 4096 < v.toNat % 4096 + (f.getLsbD 0).toNat))
      ((sbc16 x v f).1.getLsbD 11) (outOfRange 16 (x.toInt - v.toInt - (f.getLsbD 0).toNat)) true
      (decide (x.toNat < v.toNat + (f.getLsbD 0).toNat)) := by
  have hc := (f.getLsbD 0).toNat_lt
  have hback : x.toNat = ((sbc16 x v f).1.toNat + v.toNat + (f.getLsbD 0).toNat) % 2 ^ 16 := by
    rw [sbc16_toNat]
    omega
  have hh : (x ^^^ v ^^^ (sbc16 x v f).1).getLsbD 12 =
      decide (x.toNat % 4096 < v.toNat % 4096 + (f.getLsbD 0).toNat) := by
    rw [show x ^^^ v ^^^ (sbc16 x v f).1 = (sbc16 x v f).1 ^^^ v ^^^ x by ac_rfl,
      getLsbD_xor_xor_sum (by decide) hback, BitVec.carry, decide_eq_decide]
    omega
  rw [← hh, outOfRange_difference (by decide) hback, ← Word.beq_zero]
  exact mkF_bits _ _ _ _ _ _ _ _

/-! ### The forms (R310 to R317) -/

section
variable {i : Instr} {s : State} {m res : Word} {f : Byte}

/-- ADD, ADC and SBC to HL (R310 to R312). -/
theorem SetsCpu.of_arithHl (h : exec i s = .next ((((s.setMemptr m).setHl res).setF f).charge 11 [])) :
    SetsCpu i s { (s.setHl res).cpu with f := f, memptr := m, tacts := s.after 11 [] } :=
  .of_cpu h

/-- ADD to an index register (R313). -/
theorem SetsCpu.of_arithXy {x : IndexReg}
    (h : exec i s = .next ((((s.setMemptr m).setXy x res).setF f).charge 11 [])) :
    SetsCpu i s { (s.setXy x res).cpu with f := f, memptr := m, tacts := s.after 11 [] } := by
  cases x <;> exact .of_cpu h

end

/-- Settles O21: the flags by `add16_flags`; every form changes the CPU alone, whichever pair it names. -/
theorem addIncDec16Forms : Obligations.AddIncDec16Forms := by
  refine ⟨fun s => ⟨fun rp => ⟨_, _, rfl, add16_flags _ _ _, .of_arithHl rfl⟩,
      fun x rp => ⟨_, _, rfl, add16_flags _ _ _, .of_arithXy rfl⟩⟩,
    fun s => ⟨fun rp => ?_, fun x => ?_, fun rp => ?_, fun x => ?_⟩⟩
  · cases rp <;> exact .of_cpu rfl
  · cases x <;> exact .of_cpu rfl
  · cases rp <;> exact .of_cpu rfl
  · cases x <;> exact .of_cpu rfl

/-- Settles O22: the sum is the model's own, the difference is `sbc16_eq_ofNat`; the flags by `adc16_flags` and
`sbc16_flags`. -/
theorem adcAndSbc16 : Obligations.AdcAndSbc16 := by
  rintro s rp _ _ _ rfl rfl rfl
  exact ⟨⟨_, _, rfl, adc16_flags _ _ _, .of_arithHl rfl⟩,
    _, _, sbc16_eq_ofNat _ _ _, sbc16_flags _ _ _, .of_arithHl rfl⟩

end Sys2Proof.Machine
end

section
/-! PROOFS of the statements of 44_rotate_shift.md. `append_ofBool_eq_shiftLeft` and `ofBool_append_eq_shiftRight` say
the model's rotated byte as a shift and the bit that enters, the `rotResult_` lemmas the result and the bit that leaves
of each operation; `rotateA_setsCpu` carries them to the rotates of A, `RotatesTo.allForms` to the four forms of a rotate
or shift. `SetsByte.of_digitRotate` says what RLD and RRD write. -/

namespace Sys2Proof.Machine

/-! ### The result and the bit that leaves (R335 to R342) -/

/-- A byte moved up by one place, `b` entering at bit 0. -/
theorem append_ofBool_eq_shiftLeft (v : Byte) (b : Bool) :
    v.extractLsb' 0 7 ++ BitVec.ofBool b = v <<< 1 ||| BitVec.ofNat 8 b.toNat := by
  revert v b
  decide

/-- A byte moved down by one place, `b` entering at bit 7. -/
theorem ofBool_append_eq_shiftRight (v : Byte) (b : Bool) :
    BitVec.ofBool b ++ v.extractLsb' 1 7 = v >>> 1 ||| BitVec.ofNat 8 b.toNat <<< 7 := by
  revert v b
  decide

/-- The sign bit that SRA keeps is the bit that enters. -/
theorem ofNat_signBit_shiftLeft (v : Byte) : BitVec.ofNat 8 (v.getLsbD 7).toNat <<< 7 = v &&& 0x80 := by
  revert v
  decide

section
variable (v : Byte) (c : Bool)

theorem rotResult_rl : rotResult .rl v c = (v <<< 1 ||| BitVec.ofNat 8 c.toNat, v.getLsbD 7) :=
  congrArg (·, v.getLsbD 7) (append_ofBool_eq_shiftLeft v c)

theorem rotResult_rr : rotResult .rr v c = (v >>> 1 ||| BitVec.ofNat 8 c.toNat <<< 7, v.getLsbD 0) :=
  congrArg (·, v.getLsbD 0) (ofBool_append_eq_shiftRight v c)

/-! The other six are RL or RR with another bit in place of the carry. -/

theorem rotResult_rlc : rotResult .rlc v c = (v <<< 1 ||| BitVec.ofNat 8 (v.getLsbD 7).toNat, v.getLsbD 7) :=
  rotResult_rl v (v.getLsbD 7)

theorem rotResult_rrc : rotResult .rrc v c = (v >>> 1 ||| BitVec.ofNat 8 (v.getLsbD 0).toNat <<< 7, v.getLsbD 0) :=
  rotResult_rr v (v.getLsbD 0)

theorem rotResult_sla : rotResult .sla v c = (v <<< 1, v.getLsbD 7) :=
  (rotResult_rl v false).trans (congrArg (·, v.getLsbD 7) BitVec.or_zero)

theorem rotResult_sra : rotResult .sra v c = (v >>> 1 ||| (v &&& 0x80), v.getLsbD 0) := by
  rw [← ofNat_signBit_shiftLeft]
  exact rotResult_rr v (v.getLsbD 7)

theorem rotResult_sll : rotResult .sll v c = (v <<< 1 ||| 1, v.getLsbD 7) :=
  rotResult_rl v true

theorem rotResult_srl : rotResult .srl v c = (v >>> 1, v.getLsbD 0) :=
  (rotResult_rr v false).trans (congrArg (·, v.getLsbD 0) BitVec.or_zero)

end

/-! ### Rotates of A (R330 to R333) -/

/-- A rotate of A whose result is `a'`, `c` leaving, changes A and F alone; F keeps S, Z and P/V. -/
theorem rotateA_setsCpu {i : Instr} {s : State} {op : RotOp} {a' : Byte} {c : Bool}
    (h : exec i s = .next (rotateA op s)) (hop : rotResult op s.cpu.a (s.cpu.f.getLsbD 0) = (a', c)) :
    ∃ f, FlagBits f (s.cpu.f.getLsbD 7) (s.cpu.f.getLsbD 6) (a'.getLsbD 5) false (a'.getLsbD 3) (s.cpu.f.getLsbD 2)
        false c ∧
      SetsCpu i s { s.cpu with a := a', f := f, tacts := s.after 4 [] } := by
  simp only [rotateA, flagC, hop] at h
  exact ⟨rotAF a' s.cpu.f c, mkF_bits _ _ _ _ _ _ _ _, .of_cpu h⟩

/-- Settles O23: each rotate by `rotResult`'s equation for it. -/
theorem accumulatorRotates : Obligations.AccumulatorRotates := fun _ =>
  ⟨rotateA_setsCpu rfl (rotResult_rlc _ _), rotateA_setsCpu rfl (rotResult_rl _ _),
    rotateA_setsCpu rfl (rotResult_rrc _ _), rotateA_setsCpu rfl (rotResult_rr _ _)⟩

/-! ### The four forms of a rotate or shift (R334 to R343) -/

/-- The flags of a CB rotate or shift (R334): the parity is the counted one. -/
theorem rotF_flags (res : Byte) (c : Bool) : ResultFlags (rotF res c) res false (evenOnes res) false c := by
  rw [evenOnes_eq_parity]
  exact mkF_result _ _ _ _ _

/-- What a rotate or shift does to the byte `v` and to F: the result is `res` of the byte and of C, the bit that leaves is
bit `bit`. -/
def RotatesTo (res : Byte → Bool → Byte) (bit : Nat) (v f v' f' : Byte) : Prop :=
  v' = res v (f.getLsbD 0) ∧ ResultFlags f' v' false (evenOnes v') false (v.getLsbD bit)

/-- An operation whose result is `res`, bit `bit` leaving, does so in each of the four forms. -/
theorem RotatesTo.allForms {reg : Reg8 → Instr} {memHl : Instr} {memXy : IndexReg → Byte → Instr}
    {copy : IndexReg → Byte → Reg8 → Instr} {res : Byte → Bool → Byte} {bit : Nat} (op : RotOp)
    (hop : ∀ v c, rotResult op v c = (res v c, v.getLsbD bit))
    (hreg : ∀ r s, exec (reg r) s = .next (modifyReg (rotOp op) r 4 s))
    (hhl : ∀ s, exec memHl s = .next (modifyMem (rotOp op) s.hl 11 s))
    (hxy : ∀ x d s, exec (memXy x d) s = .next (modifyMemXy (rotOp op) x d 15 s))
    (hcopy : ∀ x d r s, exec (copy x d r) s = .next (modifyMemXyCopy (rotOp op) x d r 15 s)) :
    ModifyForms reg memHl memXy 15 (RotatesTo res bit) ∧ ModifyCopy copy (RotatesTo res bit) := by
  have hrot (v f : Byte) : RotatesTo res bit v f (rotOp op v f).1 (rotOp op v f).2 := by
    simp only [rotOp, hop]
    exact ⟨rfl, rotF_flags _ _⟩
  exact ⟨.of_op (rotOp op) hreg hhl hxy hrot, .of_op (rotOp op) hcopy hrot⟩

/-- Settles O24: every form by its operation, the result and the bit that leaves by `rotResult`'s equation for it. -/
theorem rotatesAllForms : Obligations.RotatesAllForms :=
  ⟨RotatesTo.allForms .rlc rotResult_rlc (fun _ _ => rfl) (fun _ => rfl) (fun _ _ _ => rfl) fun _ _ _ _ => rfl,
    RotatesTo.allForms .rrc rotResult_rrc (fun _ _ => rfl) (fun _ => rfl) (fun _ _ _ => rfl) fun _ _ _ _ => rfl,
    RotatesTo.allForms .rl rotResult_rl (fun _ _ => rfl) (fun _ => rfl) (fun _ _ _ => rfl) fun _ _ _ _ => rfl,
    RotatesTo.allForms .rr rotResult_rr (fun _ _ => rfl) (fun _ => rfl) (fun _ _ _ => rfl) fun _ _ _ _ => rfl,
    RotatesTo.allForms .sla rotResult_sla (fun _ _ => rfl) (fun _ => rfl) (fun _ _ _ => rfl) fun _ _ _ _ => rfl,
    RotatesTo.allForms .sra rotResult_sra (fun _ _ => rfl) (fun _ => rfl) (fun _ _ _ => rfl) fun _ _ _ _ => rfl,
    RotatesTo.allForms .sll rotResult_sll (fun _ _ => rfl) (fun _ => rfl) (fun _ _ _ => rfl) fun _ _ _ _ => rfl,
    RotatesTo.allForms .srl rotResult_srl (fun _ _ => rfl) (fun _ => rfl) (fun _ _ _ => rfl) fun _ _ _ _ => rfl⟩

/-! ### Rotates of the decimal digits (R344, R345) -/

theorem Byte.lowDigit_toNat (v : Byte) : (v.extractLsb' 0 4).toNat = v.toNat % 16 :=
  BitVec.extractLsb'_toNat ..

theorem Byte.highDigit_toNat (v : Byte) : (v.extractLsb' 4 4).toNat = v.toNat / 16 := by
  have := v.isLt
  rw [BitVec.extractLsb'_toNat, Nat.shiftRight_eq_div_pow]
  omega

/-- A byte from its two digits. -/
theorem digits_eq_ofNat (hi lo : BitVec 4) : (hi ++ lo : Byte) = BitVec.ofNat 8 (hi.toNat * 16 + lo.toNat) := by
  revert hi lo
  decide

/-- RLD and RRD write the byte at HL and A, the flags from the new A. -/
theorem SetsByte.of_digitRotate {i : Instr} {s : State} {newMem newA : Byte}
    (h : exec i s = .next (digitRotate newMem newA s)) :
    SetsByte i s
      { s.cpu with
        a := newA, f := digitF newA s.cpu.f, memptr := s.hl + 1, tacts := s.after 14 [readAt s.hl, writeAt s.hl] }
      s.hl newMem :=
  .of_write (fun t => (((t.setA newA).setMemptr (s.hl + 1)).setF (digitF newA s.cpu.f)).charge 14
    [readAt s.hl, writeAt s.hl]) h rfl fun _ => rfl

/-- Settles O25: the bytes by their digits, the flags those of a rotate that keeps C. -/
theorem digitRotates : Obligations.DigitRotates := by
  rintro s _ _ rfl rfl
  simp only [← Byte.lowDigit_toNat, ← Byte.highDigit_toNat, ← digits_eq_ofNat]
  exact ⟨⟨_, rotF_flags _ _, .of_digitRotate rfl⟩, _, rotF_flags _ _, .of_digitRotate rfl⟩

end Sys2Proof.Machine
end

section
/-! PROOFS of the statements of 45_bit.md. `bitF_bits` says the flags of BIT in each form; `setBit_getLsbD` and
`resBit_getLsbD` say the masks of SET and RES bit by bit, and `ModifyForms.of_op` and `ModifyCopy.of_op` carry them to the
four forms. -/

namespace Sys2Proof.Machine

/-! ### BIT (R360 to R362) -/

/-- The flags of BIT: S needs bit 7 tested and set. -/
theorem bitF_bits (v : Byte) (b : BitVec 3) (y x : Bool) (f : Byte) :
    FlagBits (bitF v b y x f) (decide (b = 7) && v.getLsbD b.toNat) (!v.getLsbD b.toNat) y true x
      (!v.getLsbD b.toNat) false (f.getLsbD 0) := by
  have hs : (b == 7 && !!v.getLsbD b.toNat) = (decide (b = 7) && v.getLsbD b.toNat) :=
    congrArg (b == 7 && ·) (Bool.not_not _)
  rw [← hs]
  exact mkF_bits _ _ _ _ _ _ _ _

/-- Settles O26: every form changes F, the indexed ones MEMPTR too, and nothing else; the flags by `bitF_bits`. -/
theorem bitTestForms : Obligations.BitTestForms := by
  refine fun s b => ⟨fun r => ⟨_, bitF_bits _ _ _ _ _, .of_cpu rfl⟩, ⟨_, bitF_bits _ _ _ _ _, .of_cpu rfl⟩, ?_⟩
  rintro x d _ rfl
  exact ⟨_, bitF_bits _ _ _ _ _, .of_cpu rfl, fun _ => .of_cpu rfl⟩

/-! ### SET and RES (R363 to R370) -/

/-- The mask `1 << b` has bit `b` alone. -/
theorem one_shiftLeft_getLsbD (b : BitVec 3) (j : Nat) : (1#8 <<< b.toNat).getLsbD j = decide (j = b.toNat) := by
  have hmask : (1#8 <<< b.toNat).getLsbD j = (decide (b.toNat < 8) && decide (b.toNat = j)) :=
    BitVec.getLsbD_twoPow b.toNat j
  rw [hmask, decide_eq_true b.isLt, Bool.true_and, decide_eq_decide]
  exact eq_comm

theorem setBit_getLsbD (v : Byte) (b : BitVec 3) (j : Nat) :
    (setBit v b).getLsbD j = (v.getLsbD j || decide (j = b.toNat)) := by
  rw [setBit, BitVec.getLsbD_or, one_shiftLeft_getLsbD]

/-- The complement of the mask has no bit from 8 on, where the byte has none either. -/
theorem resBit_getLsbD (v : Byte) (b : BitVec 3) (j : Nat) :
    (resBit v b).getLsbD j = (v.getLsbD j && decide (j ≠ b.toNat)) := by
  rw [resBit, BitVec.getLsbD_and, BitVec.getLsbD_not, one_shiftLeft_getLsbD, decide_not]
  by_cases hj : j < 8
  · rw [decide_eq_true hj, Bool.true_and]
  · rw [BitVec.getLsbD_of_ge v j (Nat.le_of_not_lt hj), Bool.false_and, Bool.false_and]

/-- Settles O27: every form by its byte operation, the byte by `setBit_getLsbD` and `resBit_getLsbD`. -/
theorem setAndResetBitAllForms : Obligations.SetAndResetBitAllForms := by
  intro b
  have hset (v f : Byte) : (setOp b v f).2 = f ∧
      ∀ j, (setOp b v f).1.getLsbD j = (v.getLsbD j || decide (j = b.toNat)) := ⟨rfl, setBit_getLsbD v b⟩
  have hres (v f : Byte) : (resOp b v f).2 = f ∧
      ∀ j, (resOp b v f).1.getLsbD j = (v.getLsbD j && decide (j ≠ b.toNat)) := ⟨rfl, resBit_getLsbD v b⟩
  exact ⟨.of_op (setOp b) (fun _ _ => rfl) (fun _ => rfl) (fun _ _ _ => rfl) hset,
    .of_op (setOp b) (fun _ _ _ _ => rfl) hset,
    .of_op (resOp b) (fun _ _ => rfl) (fun _ => rfl) (fun _ _ _ => rfl) hres,
    .of_op (resOp b) (fun _ _ _ _ => rfl) hres⟩

end Sys2Proof.Machine
end

section
/-! PROOFS of the statements of 46_jump_call_return.md. `exec_taken` and `exec_notTaken` pick the branch of a
conditional instruction by the condition as the spec writes it (30_encoding.md R119); `SetsWord.of_call` and
`SetsCpu.of_return` say what the calls and the returns share. -/

namespace Sys2Proof.Machine

/-! ### Taken and not taken -/

section
variable {i : Instr} {s t u : State} {c P : Prop} [Decidable c]

/-- `P` is the condition the spec writes, `c` the model's test of it. -/
theorem exec_taken (hcP : c ↔ P) (hP : P) (h : exec i s = .next (if c then t else u)) : exec i s = .next t := by
  rwa [if_pos (hcP.mpr hP)] at h

theorem exec_notTaken (hcP : c ↔ P) (hP : ¬P) (h : exec i s = .next (if c then t else u)) : exec i s = .next u := by
  rwa [if_neg (mt hcP.mp hP)] at h

end

/-! ### Jumps (R380 to R386) -/

/-- A jump that sets MEMPTR too. -/
theorem SetsCpu.of_jumpTo {i : Instr} {s : State} {target : Word} {n : Nat}
    (h : exec i s = .next ((s.jumpTo target).charge n [])) :
    SetsCpu i s { s.cpu with pc := target, memptr := target, tacts := s.after n [] } :=
  .of_next h (by simp [State.jumpTo, State.after]) (by simp [State.jumpTo]) (by simp [State.jumpTo])
    (by simp [State.jumpTo]) (by simp [State.jumpTo])

/-- JP cc,nn adds the same tacts on both branches (R381). -/
theorem exec_jpCcNn (cc : Cond) (nn : Word) (s : State) :
    exec (.jpCcNn cc nn) s =
      .next (if condHolds s.cpu.f cc then (s.jumpTo nn).charge 10 [] else (s.setMemptr nn).charge 10 []) :=
  congrArg Host.Outcome.next (apply_ite (State.charge · 10 []) _ _ _)

/-- Settles O28: every form changes the CPU alone, a conditional one as the branch its condition picks. -/
theorem jumpForms : Obligations.JumpForms := by
  intro s
  refine ⟨fun _ => .of_jumpTo rfl, fun cc nn => ⟨fun hc => ?_, fun hc => ?_⟩, .of_cpu rfl, fun _ => .of_cpu rfl, ?_⟩
  · exact .of_jumpTo (exec_taken (condHolds_iff _ _) hc (exec_jpCcNn cc nn s))
  · exact .of_cpu (exec_notTaken (condHolds_iff _ _) hc (exec_jpCcNn cc nn s))
  · rintro e _ rfl
    have hdjnz : s.cpu.b - 1 ≠ 0 ↔ s.cpu.b ≠ 1 := not_congr (Byte.sub_one_eq_zero _)
    refine ⟨.of_jumpTo rfl, fun jc => ⟨fun hc => ?_, fun hc => ?_⟩, fun hb => ?_, fun hb => ?_⟩
    · exact .of_jumpTo (exec_taken (jrCondHolds_iff _ _) hc rfl)
    · exact .of_cpu (exec_notTaken (jrCondHolds_iff _ _) hc rfl)
    · exact .of_cpu (exec_taken hdjnz hb rfl)
    · rw [← (Byte.sub_one_eq_zero _).mpr hb]
      exact .of_cpu (exec_notTaken hdjnz (not_not.mpr hb) rfl)

/-! ### Calls and restarts (R387, R388, R393) -/

/-- A call pushes the PC it finds. -/
theorem SetsWord.of_call {i : Instr} {s : State} {target : Word} {n : Nat}
    (h : exec i s = .next ((s.call target).charge n s.pushAccesses)) :
    SetsWord i s
      { s.cpu with
        sp := s.cpu.sp - 2, pc := target, memptr := target
        tacts := s.after n [writeAt (s.cpu.sp - 1), writeAt (s.cpu.sp - 2)] } (s.cpu.sp - 2) s.cpu.pc :=
  .of_next h (by simp [State.call, State.after, State.pushAccesses])
    (by simpa [State.call] using State.push_stored (s.setMemptr target) s.cpu.pc)
    (by simp [State.call]) (by simp [State.call]) (by simp [State.call])

/-- The three zero bits below the field multiply it by 8. -/
theorem restartAddress_eq_ofNat : ∀ t : BitVec 3, restartAddress t = BitVec.ofNat 16 (8 * t.toNat) := by decide

/-! ### Returns (R389 to R392, R563) -/

@[simp] theorem State.popValue_setIff (s : State) (b c : Bool) : (s.setIff b c).popValue = s.popValue := rfl

/-- A return pops the word at SP; RETI and RETN set IFF1 to IFF2 before it, the others keep it. -/
theorem SetsCpu.of_return {i : Instr} {s : State} {n : Nat} {iff1 : Bool}
    (h : exec i s = .next ((s.setIff iff1 s.cpu.iff2).returnToCaller.charge n s.popAccesses)) :
    SetsCpu i s
      { s.cpu with
        iff1 := iff1, sp := s.cpu.sp + 2, pc := s.popValue, memptr := s.popValue
        tacts := s.after n [readAt s.cpu.sp, readAt (s.cpu.sp + 1)] } :=
  .of_next h (by simp [State.returnToCaller, State.after, State.popAccesses]) (by simp [State.returnToCaller])
    (by simp [State.returnToCaller]) (by simp [State.returnToCaller]) (by simp [State.returnToCaller])

/-- Settles O29: the calls by `SetsWord.of_call`, the returns by `SetsCpu.of_return`; a form not taken changes the CPU
alone. -/
theorem callAndReturnForms : Obligations.CallAndReturnForms := by
  refine ⟨fun s => ⟨fun _ => .of_call rfl, fun cc nn => ⟨fun hc => ?_, fun hc => ?_⟩, fun t => ?_⟩, ?_⟩
  · exact .of_call (exec_taken (condHolds_iff _ _) hc rfl)
  · exact .of_cpu (exec_notTaken (condHolds_iff _ _) hc rfl)
  · exact restartAddress_eq_ofNat t ▸ .of_call rfl
  · rintro s _ rfl
    refine ⟨.of_return rfl, fun cc => ⟨fun hc => ?_, fun hc => ?_⟩, .of_return rfl, fun _ => .of_return rfl⟩
    · exact .of_return (exec_taken (condHolds_iff _ _) hc rfl)
    · exact .of_cpu (exec_notTaken (condHolds_iff _ _) hc rfl)

end Sys2Proof.Machine
end

section
/-! PROOFS of the statements of 47_io.md. `portRead_of_answers` and `portWrite_of_takes` say what a port access does
where the spec says what the port answers or takes; `inBlock_of_answers` and `outBlock_of_takes` say the whole effect of
one iteration of the block forms from there, for either direction. -/

namespace Sys2Proof.Machine

/-! ### A port access (20_memory.md R88 to R90; 48_ula.md R454 to R459) -/

/-- A byte with bits 5 and 7 set is one a ULA port read returns (R458). -/
theorem ulaReadByte_of_bits {v : Byte} (h7 : v.getLsbD 7 = true) (h5 : v.getLsbD 5 = true) :
    ulaReadByte (v.getLsbD 6) (v.extractLsb' 0 5) = v := by
  revert v
  decide

theorem State.earInput_of_answers {s : State} {ear : Bool} {tape : Tape} (h : EarAnswers s ear tape) :
    s.earInput = .next (ear, { s with tape := tape }) := by
  unfold EarAnswers at h
  unfold State.earInput
  by_cases hp : s.tape.loaded = true ∧ s.tape.playing = true
  · rw [if_pos hp] at h
    rw [if_pos (Bool.and_eq_true _ _ ▸ hp), h]
    rfl
  · rw [if_neg hp] at h
    obtain ⟨rfl, rfl⟩ := h
    rw [if_neg (Bool.and_eq_true _ _ ▸ hp)]

theorem isUlaPort_iff (p : Word) : isUlaPort p = true ↔ ¬p.getLsbD 0 = true := by
  rw [isUlaPort, Bool.not_eq_true', Bool.not_eq_true]

theorem portRead_of_answers {p : Word} {s : State} {v : Byte} {tape : Tape} (h : PortAnswers s p v tape) :
    portRead p s = .next (v, { s with tape := tape }) := by
  unfold PortAnswers at h
  unfold portRead
  by_cases hp : p.getLsbD 0 = true
  · rw [if_pos hp] at h
    obtain ⟨rfl, rfl⟩ := h
    rw [if_neg fun hu => (isUlaPort_iff p).mp hu hp]
    rfl
  · rw [if_neg hp] at h
    obtain ⟨htime, ear, hear, h7, rfl, h5, hlines⟩ := h
    have hbyte : ulaReadByte (v.getLsbD 6) (s.env.keyboard.lines (highByte p)) = v :=
      (congrArg _ hlines.symm).trans (ulaReadByte_of_bits h7 h5)
    rw [if_pos ((isUlaPort_iff p).mpr hp), if_pos htime, State.earInput_of_answers hear, andThen_of_next, hbyte]

theorem portWrite_of_takes {p : Word} {s : State} {v : Byte} {ula : Ula} (h : PortTakes s p v ula) :
    portWrite p v s = .next { s with ula := ula } := by
  unfold PortTakes at h
  unfold portWrite
  by_cases hp : p.getLsbD 0 = true
  · rw [if_pos hp] at h
    rw [if_neg fun hu => (isUlaPort_iff p).mp hu hp, h]
  · rw [if_neg hp] at h
    obtain ⟨htime, rfl⟩ := h
    rw [if_pos ((isUlaPort_iff p).mpr hp), if_pos htime]
    rfl

/-! ### Single input and output (R410 to R412, R417 to R419) -/

section
variable {i : Instr} {s u : State} {p : Word} {v : Byte} {cpu : Cpu} {ula : Ula} {tape : Tape}

/-- An instruction that changes the CPU, the ULA and the tape alone. -/
theorem SetsDevices.of_next (h : exec i s = .next { s with cpu := cpu, ula := ula, tape := tape }) :
    SetsDevices i s cpu ula tape :=
  ⟨_, h, rfl, fun _ => rfl, rfl, rfl, rfl⟩

/-- An instruction that reads a port in a state `u` and goes on with `k`. -/
theorem SetsDevices.of_portRead {k : Byte × State → Result} (h : PortAnswers u p v tape)
    (hi : exec i s = andThen (portRead p u) k)
    (hk : k (v, { u with tape := tape }) = .next { s with cpu := cpu, ula := ula, tape := tape }) :
    SetsDevices i s cpu ula tape := by
  rw [portRead_of_answers h, andThen_of_next, hk] at hi
  exact .of_next hi

/-- An instruction that writes a port in a state `u` and goes on with `k`. -/
theorem SetsDevices.of_portWrite {k : State → Result} (h : PortTakes u p v ula)
    (hi : exec i s = andThen (portWrite p v u) k)
    (hk : k { u with ula := ula } = .next { s with cpu := cpu, ula := ula, tape := tape }) :
    SetsDevices i s cpu ula tape := by
  rw [portWrite_of_takes h, andThen_of_next, hk] at hi
  exact .of_next hi

end

/-- The flags of IN r,(C) and IN (C) by their meanings: the parity is the counted one. -/
theorem inF_flags (v f : Byte) : ResultFlags (inF v f) v false (evenOnes v) false (f.getLsbD 0) := by
  rw [evenOnes_eq_parity]
  exact mkF_result _ _ _ _ _

/-- Settles O30: each form reads its port and then changes the CPU alone. -/
theorem inputForms : Obligations.InputForms := by
  refine fun s v tape => ⟨?_, fun h => ⟨_, inF_flags _ _, .of_portRead h rfl rfl, fun r => ?_⟩⟩
  · rintro n _ rfl h
    exact .of_portRead h rfl rfl
  · cases r <;> exact .of_portRead h rfl rfl

/-- Settles O31: each form writes its port and then changes MEMPTR alone. -/
theorem outputForms : Obligations.OutputForms := by
  refine fun s ula => ⟨?_, fun _ h => .of_portWrite h rfl rfl, fun h => .of_portWrite h rfl rfl⟩
  rintro n _ rfl h
  exact .of_portWrite h rfl rfl

/-! ### Block input and output (R413 to R416, R420 to R423) -/

/-- The flags of the block forms by their meanings: the parity is the counted one. -/
theorem ioBlockF_flags (v b : Byte) (k : Nat) : IoBlockFlags (ioBlockF v b k) v b k := by
  unfold IoBlockFlags
  rw [evenOnes_eq_parity]
  exact mkF_result _ _ _ _ _

/-- The rule's `k` of INI and of IND (R413, R415): C moves mod 256, the sum is exact. -/
theorem inBlockSum_inc (c : Byte) : (inBlockSum .inc · c) = fun v => v.toNat + (c.toNat + 1) % 256 := by
  funext v
  rw [inBlockSum, BitVec.toNat_add]
  rfl

theorem inBlockSum_dec (c : Byte) : (inBlockSum .dec · c) = fun v => v.toNat + (c.toNat + 255) % 256 := by
  funext v
  rw [inBlockSum, BitVec.toNat_sub, Nat.add_comm c.toNat]
  rfl

/-- L after HL moved one way, for each direction (R420, R422). -/
theorem lowByte_inc_toNat (w : Word) : (lowByte (Dir.inc.move w)).toNat = (w.toNat + 1) % 256 := by
  rw [lowByte_toNat, Dir.move, BitVec.toNat_add]
  show (w.toNat + 1) % 65536 % 256 = _
  omega

theorem lowByte_dec_toNat (w : Word) : (lowByte (Dir.dec.move w)).toNat = (w.toNat + 255) % 256 := by
  rw [lowByte_toNat, Dir.move, BitVec.toNat_sub]
  show (65535 + w.toNat) % 65536 % 256 = _
  omega

section
variable {i : Instr} {s : State} (dir : Dir) {n : Nat} {v : Byte} {tape : Tape} {ula : Ula} {port : Word}

/-- The whole effect of INI and IND where the port answers (R413, R415). -/
theorem inBlock_of_answers (h : PortAnswers (s.charge n [portReadAt s.bc, writeAt s.hl]) s.bc v tape) :
    ∃ m, Stored s.mem m s.hl v ∧ inBlock dir n s = .next
      { s with
        cpu := { ((s.setReg .b (s.cpu.b - 1)).setHl (dir.move s.hl)).cpu with
          f := ioBlockF v (s.cpu.b - 1) (inBlockSum dir v s.cpu.c), memptr := dir.move s.bc
          tacts := s.after n [portReadAt s.bc, writeAt s.hl] }
        mem := m
        tape := tape } := by
  refine ⟨_, State.memWrite_stored { s.charge n [portReadAt s.bc, writeAt s.hl] with tape := tape } s.hl v, ?_⟩
  rw [inBlock, portRead_of_answers h, andThen_of_next, inBlockStore, State.memWrite_eq]
  rfl

/-- INI, IND and the last iteration of INIR and INDR. -/
theorem StoresInput.of_inBlock (hi : exec i s = inBlock dir n s) :
    StoresInput i s n s.cpu.pc (dir.move s.hl) (dir.move s.bc) (inBlockSum dir · s.cpu.c) := by
  intro v tape h
  obtain ⟨m, hm, hs⟩ := inBlock_of_answers dir h
  exact ⟨_, _, ioBlockF_flags _ _ _, hi.trans hs, rfl, hm, rfl, rfl, rfl⟩

/-- INIR and INDR repeat while B is not 0 after the decrement (R414, R416). -/
theorem StoresInput.of_inBlockRepeat_ne (hi : exec i s = inBlockRepeat dir s) (hb : s.cpu.b ≠ 1) :
    StoresInput i s 17 (s.cpu.pc - 2) (dir.move s.hl) (dir.move s.bc) (inBlockSum dir · s.cpu.c) := by
  intro v tape h
  obtain ⟨m, hm, hs⟩ := inBlock_of_answers dir h
  rw [inBlockRepeat, if_pos (mt (Byte.sub_one_eq_zero _).mp hb), hs, andThen_of_next] at hi
  exact ⟨_, _, ioBlockF_flags _ _ _, hi, rfl, hm, rfl, rfl, rfl⟩

/-- They end where B is 0 after the decrement. -/
theorem StoresInput.of_inBlockRepeat_eq (hi : exec i s = inBlockRepeat dir s) (hb : s.cpu.b = 1) :
    StoresInput i s 12 s.cpu.pc (dir.move s.hl) (dir.move s.bc) (inBlockSum dir · s.cpu.c) :=
  .of_inBlock dir (hi.trans (if_neg (not_not.mpr ((Byte.sub_one_eq_zero _).mpr hb))))

/-- The whole effect of OUTI and OUTD where the port takes the byte (R420, R422). -/
theorem outBlock_of_takes (hport : port = (s.cpu.b - 1) ++ s.cpu.c)
    (h : PortTakes (s.charge n [readAt s.hl, portWriteAt port]) port (s.mem.read s.hl.toNat) ula) :
    outBlock dir n s = .next
      { s with
        cpu := { ((s.setReg .b (s.cpu.b - 1)).setHl (dir.move s.hl)).cpu with
          f := ioBlockF (s.mem.read s.hl.toNat) (s.cpu.b - 1)
            ((s.mem.read s.hl.toNat).toNat + (lowByte (dir.move s.hl)).toNat)
          memptr := dir.move port, tacts := s.after n [readAt s.hl, portWriteAt port] }
        ula := ula } := by
  subst hport
  have hwrite : portWrite (s.setReg .b (s.cpu.b - 1)).bc (s.memRead s.hl)
      ((s.setReg .b (s.cpu.b - 1)).charge n [readAt s.hl, portWriteAt (s.setReg .b (s.cpu.b - 1)).bc]) = _ :=
    portWrite_of_takes h
  rw [outBlock, hwrite]
  rfl

/-- OUTI, OUTD and the last iteration of OTIR and OTDR; `k` uses L after its update. -/
theorem SendsOutput.of_outBlock (hport : port = (s.cpu.b - 1) ++ s.cpu.c) (hi : exec i s = outBlock dir n s) :
    SendsOutput i s n s.cpu.pc (dir.move s.hl) (dir.move port) port
      ((s.mem.read s.hl.toNat).toNat + (lowByte (dir.move s.hl)).toNat) :=
  fun _ h => ⟨_, ioBlockF_flags _ _ _, .of_next (hi.trans (outBlock_of_takes dir hport h))⟩

/-- OTIR and OTDR repeat while B is not 0 after the decrement (R421, R423). -/
theorem SendsOutput.of_outBlockRepeat_ne (hport : port = (s.cpu.b - 1) ++ s.cpu.c)
    (hi : exec i s = outBlockRepeat dir s) (hb : s.cpu.b ≠ 1) :
    SendsOutput i s 17 (s.cpu.pc - 2) (dir.move s.hl) (dir.move port) port
      ((s.mem.read s.hl.toNat).toNat + (lowByte (dir.move s.hl)).toNat) := by
  intro ula h
  rw [outBlockRepeat, if_pos (mt (Byte.sub_one_eq_zero _).mp hb), outBlock_of_takes dir hport h, andThen_of_next] at hi
  exact ⟨_, ioBlockF_flags _ _ _, .of_next hi⟩

/-- They end where B is 0 after the decrement. -/
theorem SendsOutput.of_outBlockRepeat_eq (hport : port = (s.cpu.b - 1) ++ s.cpu.c)
    (hi : exec i s = outBlockRepeat dir s) (hb : s.cpu.b = 1) :
    SendsOutput i s 12 s.cpu.pc (dir.move s.hl) (dir.move port) port
      ((s.mem.read s.hl.toNat).toNat + (lowByte (dir.move s.hl)).toNat) :=
  .of_outBlock dir hport (hi.trans (if_neg (not_not.mpr ((Byte.sub_one_eq_zero _).mpr hb))))

end

/-- Settles O32: each form by what its direction does in each case, `k` by `inBlockSum_inc` and `inBlockSum_dec`. -/
theorem blockInputIteration : Obligations.BlockInputIteration := by
  intro s up down hup hdown
  rw [← inBlockSum_inc] at hup
  rw [← inBlockSum_dec] at hdown
  subst hup hdown
  exact ⟨.of_inBlock .inc rfl, .of_inBlock .dec rfl,
    fun hb => ⟨.of_inBlockRepeat_ne .inc rfl hb, .of_inBlockRepeat_ne .dec rfl hb⟩,
    fun hb => ⟨.of_inBlockRepeat_eq .inc rfl hb, .of_inBlockRepeat_eq .dec rfl hb⟩⟩

/-- Settles O33: each form by what its direction does in each case, L by `lowByte_inc_toNat` and `lowByte_dec_toNat`. -/
theorem blockOutputIteration : Obligations.BlockOutputIteration := by
  intro s port up down hport hup hdown
  rw [← lowByte_inc_toNat] at hup
  rw [← lowByte_dec_toNat] at hdown
  subst hup hdown
  exact ⟨.of_outBlock .inc hport rfl, .of_outBlock .dec hport rfl,
    fun hb => ⟨.of_outBlockRepeat_ne .inc hport rfl hb, .of_outBlockRepeat_ne .dec hport rfl hb⟩,
    fun hb => ⟨.of_outBlockRepeat_eq .inc hport rfl hb, .of_outBlockRepeat_eq .dec hport rfl hb⟩⟩

end Sys2Proof.Machine
end


section
/-! PROOFS of the statements of 48_ula.md. `PaintedAt` says which frame tact paints a pixel: no two tacts share one, so what
painting and rendering leave of a pixel is said by its tact alone. -/

namespace Sys2Proof.Machine

/-! ### Frames (R443, R444) -/

theorem Ula.completeFramesLoop_overflow (m : Memory) (t fuel : Nat) (v : Ula)
    (h : v.overflow = t - v.frameStart) :
    (v.completeFramesLoop m t fuel).overflow = t - (v.completeFramesLoop m t fuel).frameStart := by
  induction fuel generalizing v with
  | zero => exact h
  | succ n ih =>
    rw [Ula.completeFramesLoop]
    split
    · refine ih _ ?_
      simp [Ula.completeFrame]
    · exact h

/-- Over a frame boundary `Overflow` is the tact in the new frame (R444). -/
theorem Ula.completeFrames_overflow {m : Memory} {t : Nat} {v : Ula} (h : v.frameStart + frameTacts ≤ t) :
    (v.completeFrames m t).overflow = t - (v.completeFrames m t).frameStart := by
  have hpos : 0 < (t - v.frameStart) / frameTacts := Nat.div_pos (by omega) (by decide)
  unfold Ula.completeFrames
  obtain ⟨n, hn⟩ := Nat.exists_eq_succ_of_ne_zero hpos.ne'
  rw [hn, Ula.completeFramesLoop, if_pos h]
  exact Ula.completeFramesLoop_overflow m t n _ (by simp [Ula.completeFrame])

/-- Settles O50: by what `CompleteFrames` leaves after its turns. -/
theorem framesLoseNoTact : Obligations.FramesLoseNoTact := by
  refine ⟨fun m t v w hstart hle hw => ?_, fun m f v => v.renderTo_overflow m f, fun m t x v hlt => ?_, rfl⟩
  · have a := v.completeFrames_after m t
    have b := Ula.completeFrames_holds (m := m) hle
    have hlen : frameTacts = 69888 := rfl
    rw [← hw] at a b
    have hcount : w.frameStart = w.frameCount * 69888 := by
      rw [a.frameStart, a.frameCount, hstart, hlen, Nat.add_mul]
    refine ⟨hcount, b.1, b.2, by omega, fun hlt => hw.trans (Ula.completeFrames_of_lt hlt), fun hge => ?_, a.borderColour,
      a.earOut, a.micOut⟩
    have hk : (t - v.frameStart) / frameTacts ≠ 0 := (Nat.div_pos (by omega) (by decide)).ne'
    refine ⟨by rw [hw]; exact Ula.completeFrames_overflow hge, by rw [a.lastRenderedTact, if_neg hk], ?_⟩
    rw [a.flashPhase, if_neg hk, ← a.frameCount]
    rfl
  · unfold Ula.writePort
    simp [Ula.completeFrames_of_lt (m := m) (show t < v.frameStart + frameTacts from hlt)]

/-! ### Pixels (R448 to R450) -/

/-- The pixel (row, col) is painted at the frame tact `u` (R449). -/
def PaintedAt (u row col : Nat) : Prop := tactVisible u = true ∧ row = rowOf u ∧ (col = colOf u ∨ col = colOf u + 1)

/-- A frame tact from the line and the tact within it. -/
theorem lineOf_add_lineTactOf (u : Nat) : 224 * lineOf u + lineTactOf u = u := Nat.div_add_mod u 224

theorem tactVisible_iff (u : Nat) :
    tactVisible u = true ↔ 16 ≤ lineOf u ∧ lineOf u < 304 ∧ 40 ≤ lineTactOf u ∧ lineTactOf u < 216 := by
  simp only [tactVisible, Bool.and_eq_true, decide_eq_true_eq, and_assoc]
  rfl

theorem inDisplay_iff (row col : Nat) :
    inDisplay row col = true ↔ 48 ≤ row ∧ row < 240 ∧ 48 ≤ col ∧ col < 304 := by
  simp only [inDisplay, Bool.and_eq_true, decide_eq_true_eq, and_assoc]
  rfl

section
variable {u row col : Nat}

theorem PaintedAt.col_lt (h : PaintedAt u row col) : col < screenWidth := by
  obtain ⟨hv, -, hc⟩ := h
  have := (tactVisible_bounds hv).2.1
  omega

theorem PaintedAt.lt_frameTacts (h : PaintedAt u row col) : u < frameTacts := by
  have hv := (tactVisible_iff u).mp h.1
  have hu := lineOf_add_lineTactOf u
  show u < 69888
  omega

/-- No two tacts of a frame paint the same pixel. -/
theorem PaintedAt.unique {u' : Nat} (h : PaintedAt u row col) (h' : PaintedAt u' row col) : u' = u := by
  obtain ⟨hv, hr, hc⟩ := h
  obtain ⟨hv', hr', hc'⟩ := h'
  rw [tactVisible_iff] at hv hv'
  have hu := lineOf_add_lineTactOf u
  have hu' := lineOf_add_lineTactOf u'
  have hrow (w : Nat) : rowOf w = lineOf w - 16 := rfl
  have hcol (w : Nat) : colOf w = 2 * (lineTactOf w - 40) := rfl
  simp only [hrow, hcol] at hr hc hr' hc'
  omega

/-- `Paint` leaves every pixel of another tact alone. -/
theorem Ula.paint_read_other (m : Memory) (v : Ula) {u' : Nat} (h : PaintedAt u row col) (hu : u' ≠ u) :
    (v.paint m u').buffer.read row col = v.buffer.read row col := by
  unfold Ula.paint
  split
  · rename_i hv
    have hc := (tactVisible_bounds hv).2.1
    have hne (c : Nat) (hc : c = colOf u' ∨ c = colOf u' + 1) : ¬(row = rowOf u' ∧ col = c) := by
      rintro ⟨rfl, rfl⟩
      exact hu (h.unique ⟨hv, rfl, hc⟩)
    simp only [Ula.paintPixel]
    rw [PixelBuffer.read_store _ _ hc h.col_lt, if_neg (hne _ (.inr rfl)),
      PixelBuffer.read_store _ _ (by omega) h.col_lt, if_neg (hne _ (.inl rfl)), Ula.latchCell_buffer]
  · rfl

/-- `Paint(u)` gives its pixels their colours, with the latches as its first tact leaves them. -/
theorem Ula.paint_read_own (m : Memory) (v : Ula) (h : PaintedAt u row col) :
    (v.paint m u).buffer.read row col = (v.latchCell m (rowOf u) (colOf u)).colourAt row col := by
  obtain ⟨hv, rfl, hcol⟩ := h
  have hc := (tactVisible_bounds hv).2.1
  rw [Ula.paint, if_pos hv]
  simp only [Ula.paintPixel]
  obtain rfl | rfl := hcol
  · rw [PixelBuffer.read_store _ _ hc (by omega), if_neg (by omega), PixelBuffer.read_store _ _ (by omega) (by omega),
      if_pos ⟨rfl, rfl⟩]
  · rw [PixelBuffer.read_store _ _ hc hc, if_pos ⟨rfl, rfl⟩]
    rfl

/-- A pixel outside the display area takes the border colour (R450). -/
theorem Ula.colourAt_border (v : Ula) (h : ¬inDisplay row col = true) :
    v.colourAt row col = v.borderColour.setWidth 4 := if_neg h

/-- Painting tacts that are not the pixel's leaves it alone. -/
theorem Ula.paintMany_read_other (m : Memory) {count first : Nat} (v : Ula) (h : PaintedAt u row col)
    (hu : ¬(first ≤ u ∧ u < first + count)) :
    (Ula.paintMany m count first v).buffer.read row col = v.buffer.read row col := by
  induction count generalizing first v with
  | zero => rfl
  | succ n ih =>
    rw [Ula.paintMany, ih _ (by omega), Ula.paint_read_other m v h (by omega)]

/-- Painting the tact of a border pixel gives it the border colour. -/
theorem Ula.paintMany_read_border (m : Memory) {count first : Nat} (v : Ula) (h : PaintedAt u row col)
    (hb : ¬inDisplay row col = true) (hu : first ≤ u ∧ u < first + count) :
    (Ula.paintMany m count first v).buffer.read row col = v.borderColour.setWidth 4 := by
  induction count generalizing first v with
  | zero => omega
  | succ n ih =>
    rw [Ula.paintMany]
    by_cases hf : u = first
    · subst hf
      rw [Ula.paintMany_read_other m _ h (by omega), Ula.paint_read_own m v h, Ula.colourAt_border _ hb,
        (Ula.latchCell_same m v _ _).borderColour]
    · rw [ih _ (by omega), (Ula.paint_same m v first).borderColour]

/-- `RenderTo(f)` leaves alone what it has rendered before and what lies beyond `f`. -/
theorem Ula.renderTo_read_other (m : Memory) {f : Int} {v : Ula} (h : PaintedAt u row col)
    (hu : (u : Int) ≤ v.lastRenderedTact ∨ f < u) :
    (v.renderTo m f).buffer.read row col = v.buffer.read row col := by
  refine Ula.paintMany_read_other m v h ?_
  omega

/-- `RenderTo(f)` gives the border pixels up to `f` that it has not rendered before the border colour. -/
theorem Ula.renderTo_read_border (m : Memory) {f : Int} {v : Ula} (h : PaintedAt u row col)
    (hb : ¬inDisplay row col = true) (hlow : -1 ≤ v.lastRenderedTact) (hu : v.lastRenderedTact < u) (hf : u ≤ f) :
    (v.renderTo m f).buffer.read row col = v.borderColour.setWidth 4 := by
  have hlt := h.lt_frameTacts
  refine Ula.paintMany_read_border m v h hb ?_
  omega

end

/-- Settles O51: the write renders up to the tact before it with the old border, and later rendering begins there. -/
theorem borderWriteNotRetroactive : Obligations.BorderWriteNotRetroactive := by
  intro m v w t u k row col x hstart hlt hlow hlast hw hl1 hl2 ht1 ht2 hk hrow hcol
  have hp : PaintedAt u row col := by
    refine ⟨(tactVisible_iff u).mpr ⟨hl1, hl2, ht1, ht2⟩, hrow, ?_⟩
    show col = 2 * (u % 224 - 40) ∨ col = 2 * (u % 224 - 40) + 1
    omega
  have hw' : w = { v.renderTo m ((t : Int) - v.frameStart - 1) with
      borderColour := x.extractLsb' 0 3, micOut := x.getLsbD 3, earOut := x.getLsbD 4 } := by
    rw [hw, Ula.writePort, Ula.completeFrames_of_lt (show t < v.frameStart + frameTacts from hlt)]
  have hlen : ((frameTacts - 1 : Nat) : Int) = 69887 := rfl
  have hwlast : w.lastRenderedTact = (t : Int) - v.frameStart - 1 := by
    rw [hw']
    show max v.lastRenderedTact (min ((t : Int) - v.frameStart - 1) (frameTacts - 1 : Nat)) = _
    omega
  have hread : w.buffer.read row col = (v.renderTo m ((t : Int) - v.frameStart - 1)).buffer.read row col := by rw [hw']
  refine ⟨by rw [hw'], fun hu => ?_, fun f hu => ?_, fun hb => ⟨fun h1 h2 => ?_, fun f h1 h2 => ?_⟩⟩
  · rw [hread, Ula.renderTo_read_other m hp (by omega)]
  · rw [Ula.renderTo_read_other m hp (by omega)]
  · rw [hread, Ula.renderTo_read_border m hp (by rwa [inDisplay_iff]) hlow h1 (by omega)]
  · rw [Ula.renderTo_read_border m hp (by rwa [inDisplay_iff]) (by omega) (by omega) h2, hw']

/-! ### Display cells (R451, R452) -/

/-- The latches hold the bytes of a cell, in the flash phase given. -/
def Ula.Latched (v : Ula) (px attr : Byte) (flash : Bool) : Prop :=
  v.pixelLatch = px ∧ v.attrLatch = attr ∧ v.flashPhase = flash

section
variable {v : Ula} {px attr : Byte} {flash : Bool}

/-- `Paint` leaves the latches as its first pixel finds them. -/
theorem Ula.Latched.paint {m : Memory} {u : Nat} (hv : tactVisible u = true)
    (h : (v.latchCell m (rowOf u) (colOf u)).Latched px attr flash) : (v.paint m u).Latched px attr flash := by
  rw [Ula.paint, if_pos hv]
  exact h

/-- Inside a cell nothing is latched. -/
theorem Ula.Latched.inside {m : Memory} {row col : Nat} (hx : (col - 48) % 8 ≠ 0) (h : v.Latched px attr flash) :
    (v.latchCell m row col).Latched px attr flash := by
  rw [Ula.latchCell, if_neg]
  · exact h
  · rw [Bool.and_eq_true, beq_iff_eq]
    exact fun hc => hx hc.2

/-- At the first column of a cell its two bytes are latched. -/
theorem Ula.latchCell_first (m : Memory) (v : Ula) {c y : Nat} (hc : c < 32) (hy : y < 192) :
    (v.latchCell m (48 + y) (48 + 8 * c)).Latched (m.read (pixelAddress (8 * c) y)) (m.read (attrAddress (8 * c) y))
      v.flashPhase := by
  have hx : 48 + 8 * c - 2 * borderLeftTime = 8 * c := Nat.add_sub_cancel_left 48 _
  have hrow : 48 + y - borderTopLines = y := Nat.add_sub_cancel_left 48 _
  have hd : inDisplay (48 + y) (48 + 8 * c) = true := (inDisplay_iff _ _).mpr (by omega)
  simp [Ula.latchCell, Ula.Latched, hx, hrow, hd]

/-- A pixel of a cell painted with its bytes latched. -/
theorem Ula.Latched.paint_read {m : Memory} {u c y j : Nat} (hp : PaintedAt u (48 + y) (48 + 8 * c + j)) (hc : c < 32)
    (hy : y < 192) (hj : j < 8) (h : (v.latchCell m (rowOf u) (colOf u)).Latched px attr flash) :
    (v.paint m u).buffer.read (48 + y) (48 + 8 * c + j) = cellColour px attr flash (8 * c + j) := by
  obtain ⟨rfl, rfl, rfl⟩ := h
  have hx : 48 + 8 * c + j - 2 * borderLeftTime = 8 * c + j := by
    show 48 + 8 * c + j - 48 = _
    omega
  have hd : inDisplay (48 + y) (48 + 8 * c + j) = true := (inDisplay_iff _ _).mpr (by omega)
  rw [Ula.paint_read_own m v hp, Ula.colourAt, if_pos hd, hx]

end

/-- The colour of a pixel of a cell as a number: ink or paper of the attribute byte, plus 8 where bright (R452). -/
theorem cellColour_toNat (px attr : Byte) (flash : Bool) {c j : Nat} (hj : j < 8) :
    (cellColour px attr flash (8 * c + j)).toNat =
      (if (px.getLsbD (7 - j) != (attr.getLsbD 7 && flash)) = true then attr.toNat % 8 else attr.toNat / 8 % 8) +
        8 * (attr.toNat / 64 % 2) := by
  unfold cellColour
  rw [show (8 * c + j) % 8 = j by omega]
  simp only
  rw [BitVec.toNat_append, ← Nat.shiftLeft_add_eq_or_of_lt (BitVec.isLt _), Nat.shiftLeft_eq, BitVec.extractLsb'_toNat,
    Nat.shiftRight_eq_div_pow]
  split <;> simp [BitVec.extractLsb'_toNat, Nat.shiftRight_eq_div_pow] <;> omega

/-- Where the four tacts of a cell paint (R449). -/
theorem cell_tact {c y i : Nat} (hc : c < 32) (hy : y < 192) (hi : i < 4) :
    tactVisible ((64 + y) * 224 + 64 + 4 * c + i) = true ∧ rowOf ((64 + y) * 224 + 64 + 4 * c + i) = 48 + y ∧
      colOf ((64 + y) * 224 + 64 + 4 * c + i) = 48 + 8 * c + 2 * i := by
  have hline : lineOf ((64 + y) * 224 + 64 + 4 * c + i) = 64 + y := by
    show ((64 + y) * 224 + 64 + 4 * c + i) / 224 = _
    omega
  have htact : lineTactOf ((64 + y) * 224 + 64 + 4 * c + i) = 64 + 4 * c + i := by
    show ((64 + y) * 224 + 64 + 4 * c + i) % 224 = _
    omega
  refine ⟨(tactVisible_iff _).mpr (by omega), ?_, ?_⟩
  · show lineOf _ - 16 = _
    omega
  · show 2 * (lineTactOf _ - 40) = _
    omega

theorem cell_paintedAt {c y j : Nat} (hc : c < 32) (hy : y < 192) (hj : j < 8) :
    PaintedAt ((64 + y) * 224 + 64 + 4 * c + j / 2) (48 + y) (48 + 8 * c + j) := by
  obtain ⟨hv, hrow, hcol⟩ := cell_tact hc hy (show j / 2 < 4 by omega)
  exact ⟨hv, hrow.symm, by omega⟩

/-- The picture of a cell after its four tacts: the bytes latched at the first (R452). -/
theorem Ula.paint_cell (m m1 m2 m3 : Memory) (v : Ula) {u c y j : Nat} (hc : c < 32) (hy : y < 192) (hj : j < 8)
    (hu : u = (64 + y) * 224 + 64 + 4 * c) :
    ((((v.paint m u).paint m1 (u + 1)).paint m2 (u + 2)).paint m3 (u + 3)).buffer.read (48 + y) (48 + 8 * c + j) =
      cellColour (m.read (pixelAddress (8 * c) y)) (m.read (attrAddress (8 * c) y)) v.flashPhase (8 * c + j) := by
  have hp : PaintedAt (u + j / 2) (48 + y) (48 + 8 * c + j) := hu ▸ cell_paintedAt hc hy hj
  have hat (i : Nat) (hi : i < 4) := hu ▸ cell_tact hc hy hi
  obtain ⟨v0, r0, c0⟩ := hat 0 (by decide)
  obtain ⟨v1, -, c1⟩ := hat 1 (by decide)
  obtain ⟨v2, -, c2⟩ := hat 2 (by decide)
  obtain ⟨v3, -, c3⟩ := hat 3 (by decide)
  have l0 := Ula.latchCell_first m v hc hy
  rw [← r0, show 48 + 8 * c = colOf (u + 0) from c0.symm, Nat.add_zero] at l0
  have l1 := (l0.paint v0).inside (m := m1) (row := rowOf (u + 1)) (col := colOf (u + 1)) (by omega)
  have l2 := (l1.paint v1).inside (m := m2) (row := rowOf (u + 2)) (col := colOf (u + 2)) (by omega)
  have l3 := (l2.paint v2).inside (m := m3) (row := rowOf (u + 3)) (col := colOf (u + 3)) (by omega)
  obtain h | h | h | h : j / 2 = 0 ∨ j / 2 = 1 ∨ j / 2 = 2 ∨ j / 2 = 3 := by omega
  all_goals rw [h] at hp
  · rw [Ula.paint_read_other m3 _ hp (by omega), Ula.paint_read_other m2 _ hp (by omega),
      Ula.paint_read_other m1 _ hp (by omega)]
    exact l0.paint_read hp hc hy hj
  · rw [Ula.paint_read_other m3 _ hp (by omega), Ula.paint_read_other m2 _ hp (by omega)]
    exact l1.paint_read hp hc hy hj
  · rw [Ula.paint_read_other m3 _ hp (by omega)]
    exact l2.paint_read hp hc hy hj
  · exact l3.paint_read hp hc hy hj

/-- Numbers whose bits do not overlap. -/
theorem or_eq_add_of_dvd {a b : Nat} (i : Nat) (ha : 2 ^ i ∣ a) (hb : b < 2 ^ i) : a ||| b = a + b := by
  obtain ⟨k, rfl⟩ := ha
  exact (Nat.two_pow_add_eq_or_of_lt hb k).symm

/-- The address of a pixel byte as the rule's OR (R451). -/
theorem pixelAddress_eq_or {x y : Nat} (hx : x < 256) (hy : y < 192) :
    pixelAddress x y = (0x4000 ||| (y / 64) <<< 11 ||| (y % 8) <<< 8 ||| (y / 8 % 8) <<< 5 ||| x / 8) := by
  simp only [Nat.shiftLeft_eq]
  rw [or_eq_add_of_dvd (a := 0x4000) 14 (by decide) (by omega),
    or_eq_add_of_dvd (b := y % 8 * 2 ^ 8) 11 (by omega) (by omega),
    or_eq_add_of_dvd (b := y / 8 % 8 * 2 ^ 5) 8 (by omega) (by omega), or_eq_add_of_dvd 5 (by omega) (by omega)]
  rfl

/-- Settles O52: the cell by `Ula.paint_cell`, the addresses by `pixelAddress_eq_or`. -/
theorem displayCells : Obligations.DisplayCells := by
  constructor
  · rintro m m1 m2 m3 v u c y j px attr hc hy hj hu rfl rfl
    rw [Ula.paint_cell m m1 m2 m3 v hc hy hj hu, cellColour_toNat _ _ _ hj, pixelAddress, attrAddress,
      Nat.mul_div_cancel_left c (by decide)]
  · intro x y x' y' hx hy hx' hy'
    refine ⟨pixelAddress_eq_or hx hy, ?_, ?_, rfl, ?_, ?_⟩
    · simp only [pixelAddress]; omega
    · simp only [pixelAddress]; omega
    · simp only [attrAddress]; omega
    · simp only [pixelAddress]; omega

/-! ### Port reads (R456 to R459; 20_memory.md R90) -/

/-- A half-row shows its lines where its address bit is 0, and no pressed key elsewhere. -/
theorem halfRow_getLsbD (h : Byte) (j : Nat) (lines : BitVec 5) {i : Nat} (hi : i < 5) :
    (halfRow h j lines).getLsbD i = true ↔ (h.getLsbD j = false → lines.getLsbD i = true) := by
  unfold halfRow
  have hall : (0x1F : BitVec 5).getLsbD i = true := by interval_cases i <;> rfl
  split
  · rename_i hb
    simp only [hb, hall, reduceCtorEq, false_imp_iff]
  · rename_i hb
    simp only [hb, forall_const]

/-- A key line is 1 exactly when it is in every half-row that is read (R458). -/
theorem Keyboard.lines_getLsbD (k : Keyboard) (h : Byte) {i : Nat} (hi : i < 5) :
    (k.lines h).getLsbD i = true ↔ ∀ j, j < 8 → h.getLsbD j = false → (keyRow k j).getLsbD i = true := by
  simp only [Keyboard.lines, BitVec.getLsbD_and, Bool.and_eq_true, halfRow_getLsbD _ _ _ hi]
  constructor
  · rintro ⟨⟨⟨⟨⟨⟨⟨h0, h1⟩, h2⟩, h3⟩, h4⟩, h5⟩, h6⟩, h7⟩ j hj
    interval_cases j <;> assumption
  · intro hrow
    exact ⟨⟨⟨⟨⟨⟨⟨hrow 0 (by decide), hrow 1 (by decide)⟩, hrow 2 (by decide)⟩, hrow 3 (by decide)⟩,
      hrow 4 (by decide)⟩, hrow 5 (by decide)⟩, hrow 6 (by decide)⟩, hrow 7 (by decide)⟩

theorem Keyboard.idle_lines (h : Byte) : Keyboard.idle.lines h = 0x1F := by
  simp [Keyboard.lines, halfRow, Keyboard.idle]

theorem ulaReadByte_bits (ear : Bool) (lines : BitVec 5) :
    (ulaReadByte ear lines).getLsbD 7 = true ∧ (ulaReadByte ear lines).getLsbD 6 = ear ∧
      (ulaReadByte ear lines).getLsbD 5 = true ∧ (ulaReadByte ear lines).extractLsb' 0 5 = lines := by
  revert ear lines
  decide

/-- Settles O53: what the ULA answers by `portRead_of_answers`. -/
theorem portsAnswer : Obligations.PortsAnswer := by
  constructor
  · intro s p ear tape hp htime hplay hidle
    obtain ⟨h7, h6, h5, hlines⟩ := ulaReadByte_bits ear (s.env.keyboard.lines (highByte p))
    have hear : EarAnswers s ear tape := by
      unfold EarAnswers
      split
      · exact hplay ‹_›
      · exact hidle ‹_›
    have hodd : ¬p.getLsbD 0 = true := Bool.eq_false_iff.mp hp
    refine ⟨_, portRead_of_answers ?_, h7, h6, h5, fun i hi => ?_, fun hk => ?_⟩
    · rw [PortAnswers, if_neg hodd]
      exact ⟨htime, ear, hear, h7, h6, h5, hlines⟩
    · have hline := congrArg (BitVec.getLsbD · i) hlines
      simp only [BitVec.getLsbD_extractLsb', hi, decide_true, Bool.true_and, Nat.zero_add] at hline
      rw [hline, Keyboard.lines_getLsbD _ _ hi]
      refine forall₂_congr fun j hj => ?_
      rw [highByte, BitVec.getLsbD_extractLsb', decide_eq_true hj, Bool.true_and]
    · rw [hlines, hk, Keyboard.idle_lines]
  · intro s p v hp
    exact ⟨portRead_of_answers (by rw [PortAnswers, if_pos hp]; exact ⟨rfl, rfl⟩),
      portWrite_of_takes (by rw [PortTakes, if_pos hp])⟩

end Sys2Proof.Machine
end


section
/-! PROOFS of the statements of 49_tzx.md. `Answers` says how a query ends, turn by turn of the loop of `GetEarBit`; what
holds of every query is proved by induction over it. `Timeline.bitPoint_get` says the point of each bit,
`readContent_list` what the loop of `ReadContent` reads of a file, `nextUnskipped_append` which block `NextBlock` finds. -/

namespace Sys2Proof.Machine

/-! ### One turn of the loop of GetEarBit (R521, R522) -/

theorem TzxBlock.bind_timeline {p : Tape} {b : TzxBlock} {tl : Timeline} (hb : p.currentBlock = some b)
    (ht : b.timeline = some tl) : p.currentBlock.bind TzxBlock.timeline = some tl := by
  rw [hb, Option.bind_some, ht]

/-- The player at the end of its block, as the loop of `GetEarBit(t)` hands it to `NextBlock`. -/
def Tape.finished (t : Nat) (p : Tape) : Tape := { p with lastQueryTact := t, blockPhase := .completed }

/-- The player that has been asked at `t`. -/
def Tape.asked (t : Nat) (p : Tape) : Tape := { p with lastQueryTact := t }

/-- What the query at `t` leaves of a player whose block has not ended. -/
def Tape.showing (tl : Timeline) (t : Nat) (p : Tape) : Tape :=
  { p with
    lastQueryTact := t, blockPhase := (tl.at (t - p.blockStart)).phase
    byteIndex := (tl.at (t - p.blockStart)).byteIndex, bitMask := (tl.at (t - p.blockStart)).bitMask }

section
variable {t : Nat} {p : Tape} {tl : Timeline}

theorem Tape.advance_completed (fuel : Nat) (hc : p.playPhase = .completed) : Tape.advance fuel t p = .next p := by
  cases fuel with
  | zero => rfl
  | succ n => rw [Tape.advance, hc]

theorem Tape.advance_before (fuel : Nat) (hb : p.currentBlock.bind TzxBlock.timeline = some tl)
    (ht : t < p.blockStart + tl.duration) : Tape.advance fuel t p = .next p := by
  cases fuel with
  | zero => rfl
  | succ n =>
    rw [Tape.advance, hb]
    split
    · rfl
    · rfl
    · rename_i heq _
      cases heq
      rw [if_neg (by omega)]

theorem Tape.advance_none (fuel : Nat) (hb : p.currentBlock.bind TzxBlock.timeline = none) :
    Tape.advance fuel t p = .next p := by
  cases fuel with
  | zero => rfl
  | succ n =>
    rw [Tape.advance, hb]
    split
    · rfl
    · rfl
    · contradiction

theorem Tape.advance_after (fuel : Nat) (hc : p.playPhase ≠ .completed)
    (hb : p.currentBlock.bind TzxBlock.timeline = some tl) (ht : p.blockStart + tl.duration ≤ t) :
    Tape.advance (fuel + 1) t p =
      andThen (Tape.nextBlock (p.blockStart + tl.duration) { p with blockPhase := .completed })
        (Tape.advance fuel t) := by
  rw [Tape.advance, hb]
  split
  · contradiction
  · contradiction
  · rename_i heq _
    cases heq
    rw [if_pos ht]

theorem Tape.sample_completed (hc : p.playPhase = .completed) : Tape.sample t p = .next (true, p) := by
  rw [Tape.sample, hc]
  rfl

theorem Tape.sample_none (hc : p.playPhase ≠ .completed) (hb : p.currentBlock.bind TzxBlock.timeline = none) :
    Tape.sample t p = .refused .noCurrentTapeBlock := by
  rw [Tape.sample, hb]
  split
  · contradiction
  · rfl
  · contradiction

theorem Tape.sample_before (hc : p.playPhase ≠ .completed) (hb : p.currentBlock.bind TzxBlock.timeline = some tl)
    (hq : p.lastQueryTact = t) :
    Tape.sample t p = .next ((tl.at (t - p.blockStart)).level, p.showing tl t) := by
  rw [Tape.sample, hb]
  split
  · contradiction
  · contradiction
  · rename_i heq _
    cases heq
    rw [Tape.showing, ← hq]

/-! ### The fuel of the loop suffices -/

/-- The blocks the player has not come to. -/
def Tape.remaining (p : Tape) : Nat := p.blocks.length - (p.currentBlockIndex + 1).toNat

theorem nextUnskipped_index {blocks : List TzxBlock} {i index : Nat} {b : TzxBlock}
    (h : nextUnskipped blocks i = some (index, b)) : i ≤ index ∧ index < i + blocks.length := by
  induction blocks generalizing i with
  | nil => cases h
  | cons c rest ih =>
    rw [nextUnskipped] at h
    rw [List.length_cons]
    split at h
    · have := ih h
      omega
    · cases h
      omega

/-- `NextBlock` ends the tape or comes to a further block. -/
theorem Tape.nextBlock_remaining {q : Tape} {s : Nat} (h : Tape.nextBlock s p = .next q) :
    q.playPhase = .completed ∨ q.remaining < p.remaining := by
  obtain rfl | ⟨index, b, tl, hn, -, -, -, rfl⟩ := Tape.nextBlock_next h
  · exact .inl rfl
  · have := nextUnskipped_index hn
    rw [List.length_drop] at this
    right
    simp only [Tape.remaining]
    omega

/-- With fuel for every block left, one turn more changes nothing. -/
theorem Tape.advance_succ {fuel : Nat} (h : p.remaining < fuel) :
    Tape.advance (fuel + 1) t p = Tape.advance fuel t p := by
  induction fuel generalizing p with
  | zero => omega
  | succ n ih =>
    by_cases hc : p.playPhase = .completed
    · rw [Tape.advance_completed _ hc, Tape.advance_completed _ hc]
    cases hb : p.currentBlock.bind TzxBlock.timeline with
    | none => rw [Tape.advance_none _ hb, Tape.advance_none _ hb]
    | some tl =>
      by_cases ht : t < p.blockStart + tl.duration
      · rw [Tape.advance_before _ hb ht, Tape.advance_before _ hb ht]
      · rw [Tape.advance_after _ hc hb (by omega), Tape.advance_after _ hc hb (by omega)]
        cases hn : Tape.nextBlock (p.blockStart + tl.duration) { p with blockPhase := .completed } with
        | next q =>
          obtain hq | hq := Tape.nextBlock_remaining hn
          · rw [andThen_of_next, andThen_of_next, Tape.advance_completed _ hq, Tape.advance_completed _ hq]
          · exact ih (Nat.lt_of_lt_of_le hq (Nat.le_of_lt_succ h))
        | fault e => rfl
        | refused r => rfl

/-! ### A query turn by turn -/

theorem Tape.getEarBit_reversed (ht : t < p.lastQueryTact) : p.getEarBit t = .refused .tapeTimeReversed := if_pos ht

theorem Tape.getEarBit_asked (hq : p.lastQueryTact ≤ t) :
    p.getEarBit t = andThen (Tape.advance (p.blocks.length + 1) t (p.asked t)) (Tape.sample t) :=
  if_neg (Nat.not_lt.mpr hq)

theorem Tape.getEarBit_completed (hq : p.lastQueryTact ≤ t) (hc : p.playPhase = .completed) :
    p.getEarBit t = .next (true, p.asked t) := by
  rw [Tape.getEarBit_asked hq, Tape.advance_completed (p := p.asked t) _ hc]
  exact Tape.sample_completed hc

theorem Tape.getEarBit_none (hq : p.lastQueryTact ≤ t) (hc : p.playPhase ≠ .completed)
    (hb : p.currentBlock.bind TzxBlock.timeline = none) : p.getEarBit t = .refused .noCurrentTapeBlock := by
  rw [Tape.getEarBit_asked hq, Tape.advance_none (p := p.asked t) _ hb]
  exact Tape.sample_none hc hb

theorem Tape.getEarBit_before (hq : p.lastQueryTact ≤ t) (hc : p.playPhase ≠ .completed)
    (hb : p.currentBlock.bind TzxBlock.timeline = some tl) (ht : t < p.blockStart + tl.duration) :
    p.getEarBit t = .next ((tl.at (t - p.blockStart)).level, p.showing tl t) := by
  rw [Tape.getEarBit_asked hq, Tape.advance_before (p := p.asked t) _ hb ht]
  exact Tape.sample_before (p := p.asked t) hc hb rfl

theorem Tape.getEarBit_after (hq : p.lastQueryTact ≤ t) (hc : p.playPhase ≠ .completed)
    (hb : p.currentBlock.bind TzxBlock.timeline = some tl) (ht : p.blockStart + tl.duration ≤ t) :
    p.getEarBit t = andThen (Tape.nextBlock (p.blockStart + tl.duration) (p.finished t)) (Tape.getEarBit t) := by
  rw [Tape.getEarBit_asked hq, Tape.advance_after (p := p.asked t) _ hc hb ht]
  show andThen (andThen (Tape.nextBlock (p.blockStart + tl.duration) (p.finished t)) _) _ = _
  cases hn : Tape.nextBlock (p.blockStart + tl.duration) (p.finished t) with
  | next q =>
    obtain ⟨-, hblocks, -, hlast⟩ := Tape.nextBlock_keeps hn
    change q.lastQueryTact = t at hlast
    have hasked : q.asked t = q := congrArg (Tape.asked · q) hlast.symm
    have hfuel : Tape.advance (q.blocks.length + 1) t q = Tape.advance p.blocks.length t q := by
      rw [hblocks]
      obtain hd | hr := Tape.nextBlock_remaining hn
      · rw [Tape.advance_completed _ hd, Tape.advance_completed _ hd]
      · exact Tape.advance_succ (Nat.lt_of_lt_of_le hr (Nat.sub_le _ _))
    rw [andThen_of_next, andThen_of_next, Tape.getEarBit_asked (Nat.le_of_eq hlast), hasked, hfuel]
  | fault e => rfl
  | refused r => rfl

end

/-- Settles O57: the four ways a query of a player goes. -/
theorem queryPassesFinishedBlocks : Obligations.QueryPassesFinishedBlocks := by
  refine fun p t => ⟨Tape.getEarBit_reversed, fun hq hc => ⟨_, Tape.getEarBit_completed hq hc, rfl⟩,
    fun b tl hq hc hb htl => ?_⟩
  have hbind := TzxBlock.bind_timeline hb htl
  exact ⟨Tape.getEarBit_before hq hc hbind, Tape.getEarBit_after hq hc hbind⟩

/-! ### The level as a function of the tact (R523) -/

/-- A query of the player `p` at `t` answers the level `b` and leaves `q`: the player is completed; or its block shows
`t`; or its block has ended, and the player that `NextBlock` starts answers. -/
inductive Answers (t : Nat) : Tape → Bool → Tape → Prop
  | completed {p : Tape} : p.lastQueryTact ≤ t → p.playPhase = .completed → Answers t p true (p.asked t)
  | shows {p : Tape} {tl : Timeline} : p.lastQueryTact ≤ t → p.playPhase ≠ .completed →
      p.currentBlock.bind TzxBlock.timeline = some tl → t < p.blockStart + tl.duration →
      Answers t p (tl.at (t - p.blockStart)).level (p.showing tl t)
  | passes {p p' q : Tape} {tl : Timeline} {b : Bool} : p.lastQueryTact ≤ t → p.playPhase ≠ .completed →
      p.currentBlock.bind TzxBlock.timeline = some tl → p.blockStart + tl.duration ≤ t →
      Tape.nextBlock (p.blockStart + tl.duration) (p.finished t) = .next p' → Answers t p' b q → Answers t p b q

theorem Answers.of_getEarBit {t : Nat} {p q : Tape} {b : Bool} (h : p.getEarBit t = .next (b, q)) : Answers t p b q := by
  have hq : p.lastQueryTact ≤ t := by
    by_contra hlt
    rw [Tape.getEarBit_reversed (by omega)] at h
    cases h
  by_cases hc : p.playPhase = .completed
  · rw [Tape.getEarBit_completed hq hc] at h
    cases h
    exact .completed hq hc
  cases hb : p.currentBlock.bind TzxBlock.timeline with
  | none =>
    rw [Tape.getEarBit_none hq hc hb] at h
    cases h
  | some tl =>
    by_cases ht : t < p.blockStart + tl.duration
    · rw [Tape.getEarBit_before hq hc hb ht] at h
      cases h
      exact .shows hq hc hb ht
    · rw [Tape.getEarBit_after hq hc hb (by omega), andThen_next] at h
      obtain ⟨p', hn, h'⟩ := h
      exact .passes hq hc hb (by omega) hn (Answers.of_getEarBit h')
termination_by (if p.playPhase = .completed then 0 else 1, p.remaining)
decreasing_by
  rw [if_neg hc]
  obtain hd | hr := Tape.nextBlock_remaining hn
  · rw [if_pos hd]
    exact .left _ _ (by decide)
  · split
    · exact .left _ _ (by decide)
    · exact .right _ hr

theorem getEarBit_next_iff {t : Nat} {p q : Tape} {b : Bool} : p.getEarBit t = .next (b, q) ↔ Answers t p b q := by
  refine ⟨.of_getEarBit, fun h => ?_⟩
  induction h with
  | completed hq hc => exact Tape.getEarBit_completed hq hc
  | shows hq hc hb ht => exact Tape.getEarBit_before hq hc hb ht
  | passes hq hc hb ht hn _ ih => rw [Tape.getEarBit_after hq hc hb ht, hn, andThen_of_next, ih]

theorem Answers.of_completed {t : Nat} {p q : Tape} {b : Bool} (hc : p.playPhase = .completed) (h : Answers t p b q) :
    p.lastQueryTact ≤ t ∧ b = true ∧ q = p.asked t := by
  cases h with
  | completed hq => exact ⟨hq, rfl, rfl⟩
  | shows _ hn | passes _ hn => exact absurd hc hn

theorem Answers.queried {t : Nat} {p q : Tape} {b : Bool} (h : Answers t p b q) : q.lastQueryTact = t := by
  induction h with
  | completed | shows => rfl
  | passes _ _ _ _ _ _ ih => exact ih

/-- The same query again answers the same. -/
theorem Answers.again {t : Nat} {p q : Tape} {b : Bool} (h : Answers t p b q) : Answers t q b q := by
  induction h with
  | completed _ hc => exact .completed (p := Tape.asked t _) (Nat.le_refl t) hc
  | shows _ hc hb ht => exact .shows (p := Tape.showing _ t _) (Nat.le_refl t) hc hb ht
  | passes _ _ _ _ _ _ ih => exact ih

/-- The last query's tact does not matter to an answer. -/
theorem Answers.asked {t u : Nat} {p q : Tape} {b : Bool} (hu : u ≤ t) (h : Answers t p b q) :
    Answers t (p.asked u) b q := by
  cases h with
  | completed _ hc => exact .completed (p := p.asked u) hu hc
  | shows _ hc hb ht => exact .shows (p := p.asked u) hu hc hb ht
  | passes _ hc hb ht hn h => exact .passes (p := p.asked u) hu hc hb ht hn h

/-- A query that ends the tape leaves no block and the phase Completed (R522, R524). -/
theorem Answers.ended {t : Nat} {p q : Tape} {b : Bool} (h : Answers t p b q) (hp : p.playPhase ≠ .completed)
    (hq : q.playPhase = .completed) : q.currentBlock = none ∧ q.blockPhase = .completed := by
  induction h with
  | completed _ hc => exact absurd hc hp
  | shows _ hc => exact absurd hq hc
  | passes _ hc _ _ hn h ih =>
    obtain rfl | ⟨index, b, tl, -, -, -, -, rfl⟩ := Tape.nextBlock_next hn
    · obtain ⟨-, -, rfl⟩ := h.of_completed rfl
      exact ⟨rfl, rfl⟩
    · exact ih hc hq

/-- The player `r` but for the two fields of a block that ended with the tape. -/
def Tape.SameButResidue (r r' : Tape) : Prop :=
  r' = { r with byteIndex := r'.byteIndex, bitMask := r'.bitMask } ∧ (r.playPhase ≠ .completed → r' = r)

/-- What `NextBlock` does with ByteIndex and BitMask: it overwrites them, or leaves them and ends the tape. -/
theorem Tape.nextBlock_residue {s : Nat} {p q : Tape} (k : Nat) (m : Byte) (h : Tape.nextBlock s p = .next q) :
    ∃ q', Tape.nextBlock s { p with byteIndex := k, bitMask := m } = .next q' ∧
      (q' = q ∨ q.playPhase = .completed ∧ q' = { q with byteIndex := k, bitMask := m }) := by
  unfold Tape.nextBlock at h ⊢
  simp only at h ⊢
  split at h
  · cases h
    exact ⟨_, rfl, .inr ⟨rfl, rfl⟩⟩
  · obtain ⟨hp, hu, tl, htl, rfl⟩ := Tape.initPlayBlock_next h
    exact ⟨_, by simp [Tape.initPlayBlock, htl, hp, hu], .inl rfl⟩

theorem Tape.nextBlock_asked {s : Nat} {p q : Tape} (u : Nat) (h : Tape.nextBlock s p = .next q) :
    Tape.nextBlock s (p.asked u) = .next (q.asked u) := by
  unfold Tape.nextBlock at h ⊢
  simp only [Tape.asked] at h ⊢
  split at h
  · cases h
    rfl
  · obtain ⟨hp, hu, tl, htl, rfl⟩ := Tape.initPlayBlock_next h
    simp [Tape.initPlayBlock, htl, hp, hu]

/-- A query at `t2` answers alike whether or not the player was asked at an earlier `t1`. -/
theorem Answers.skip {t1 t2 : Nat} {p q r : Tape} {b1 b2 : Bool} (ht : t1 ≤ t2) (h1 : Answers t1 p b1 q)
    (h2 : Answers t2 q b2 r) : ∃ r', Answers t2 p b2 r' ∧ r.SameButResidue r' := by
  induction h1 with
  | completed hq hc =>
    obtain ⟨-, rfl, rfl⟩ := Answers.of_completed (p := Tape.asked t1 _) hc h2
    exact ⟨_, .completed (hq.trans ht) hc, rfl, fun _ => rfl⟩
  | @shows p tl hq hc hb hlt =>
    cases h2 with
    | completed _ hd => exact absurd hd hc
    | shows _ _ hb' hlt' => exact ⟨_, .shows (hq.trans ht) hc hb' hlt', rfl, fun _ => rfl⟩
    | passes _ _ hb' hle hn h =>
      obtain ⟨q', hn', rfl | ⟨hd, rfl⟩⟩ := Tape.nextBlock_residue p.byteIndex p.bitMask hn
      · exact ⟨_, .passes (hq.trans ht) hc hb' hle hn' h, rfl, fun _ => rfl⟩
      · obtain ⟨hl, rfl, rfl⟩ := h.of_completed hd
        exact ⟨_, .passes (hq.trans ht) hc hb' hle hn' (.completed hl hd), rfl, absurd hd⟩
  | @passes p p' q tl b hq hc hb hle hn h ih =>
    obtain ⟨r', h', hr⟩ := ih h2
    have hn' := Tape.nextBlock_asked t2 hn
    exact ⟨r', .passes (hq.trans ht) hc hb (hle.trans ht) hn' (h'.asked (Nat.le_refl t2)), hr⟩

/-- Settles O58: both by induction over the turns of the queries. -/
theorem earLevelIsFunctionOfTact : Obligations.EarLevelIsFunctionOfTact := by
  constructor
  · intro p q t b h
    rw [getEarBit_next_iff] at h ⊢
    exact ⟨h.again, fun u hu => Tape.getEarBit_reversed (by rwa [h.queried])⟩
  · intro p q r t1 t2 b1 b2 ht h1 h2
    rw [getEarBit_next_iff] at h1 h2
    obtain ⟨r', h, hr, hsame⟩ := h1.skip ht h2
    refine ⟨r', getEarBit_next_iff.mpr h, hr, hsame, fun hp hc => h.ended hp ?_⟩
    rw [hr]
    exact hc

/-! ### The timeline of a block (R515 to R520, R526) -/

/-- The tacts of some bits as a sum (R518). -/
theorem Timeline.bitsLength_eq_sum (t : Timeline) (bits : List Bool) :
    t.bitsLength bits = (bits.map fun b => 2 * (if b = true then t.bit1 else t.bit0)).sum := by
  induction bits with
  | nil => rfl
  | cons b rest ih => rw [Timeline.bitsLength, ih, List.map_cons, List.sum_cons, Timeline.half]

/-- Behind the last bit there is no point of the Data phase. -/
theorem Timeline.bitPoint_end (t : Timeline) {bits : List Bool} {k pos : Nat} (h : t.bitsLength bits ≤ pos) :
    t.bitPoint bits k pos = none := by
  induction bits generalizing k pos with
  | nil => rfl
  | cons b rest ih =>
    rw [Timeline.bitsLength] at h
    rw [Timeline.bitPoint, if_neg (by omega), ih (by omega)]

/-- In the span of a bit the point is its own. -/
theorem Timeline.bitPoint_get (t : Timeline) {bits : List Bool} {n k pos : Nat} {bit : Bool} (hk : bits[k]? = some bit)
    (hlow : t.bitsLength (bits.take k) ≤ pos) (hhigh : pos < t.bitsLength (bits.take k) + 2 * t.half bit) :
    t.bitPoint bits n pos =
      some ⟨decide (t.bitsLength (bits.take k) + t.half bit ≤ pos), .data, (n + k) / 8, 0x80#8 >>> ((n + k) % 8)⟩ := by
  induction bits generalizing n k pos with
  | nil => cases hk
  | cons b rest ih =>
    cases k with
    | zero =>
      cases hk
      simp only [List.take_zero, Timeline.bitsLength, Nat.zero_add] at hlow hhigh ⊢
      rw [Timeline.bitPoint, if_pos hhigh]
      rfl
    | succ k =>
      simp only [List.take_succ_cons, Timeline.bitsLength] at hlow hhigh ⊢
      rw [Timeline.bitPoint, if_neg (by omega), ih hk (by omega) (by omega), Nat.succ_add_eq_add_succ]
      simp only [Option.some.injEq, TapePoint.mk.injEq, decide_eq_decide, and_true]
      omega

section
variable {t : Timeline} {pos : Nat}

theorem Timeline.at_pilot (h : pos < t.pilotEnd) : t.at pos = ⟨pos / t.pilotPulse % 2 == 0, .pilot, 0, 0x80⟩ := if_pos h

theorem Timeline.at_sync (hlow : t.pilotEnd ≤ pos) (h : pos < t.syncEnd) :
    t.at pos = ⟨decide (t.pilotEnd + t.sync1 ≤ pos), .sync, 0, 0x80⟩ := by
  rw [Timeline.at, if_neg (by omega), if_pos h]

theorem Timeline.at_data {point : TapePoint} (hlow : t.syncEnd ≤ pos)
    (h : t.bitPoint t.bits 0 (pos - t.syncEnd) = some point) : t.at pos = point := by
  have hp : t.pilotEnd ≤ t.syncEnd := by unfold Timeline.syncEnd; omega
  rw [Timeline.at, if_neg (by omega), if_neg (by omega), h]

theorem Timeline.at_rest (h : t.dataEnd ≤ pos) :
    t.at pos = ⟨true, if pos < t.duration then .pause else .completed, t.byteCount, 0x80⟩ := by
  unfold Timeline.dataEnd at h
  have hp : t.pilotEnd ≤ t.syncEnd := by unfold Timeline.syncEnd; omega
  rw [Timeline.at, if_neg (by omega), if_neg (by omega), t.bitPoint_end (by omega)]
  rfl

end

/-- The pilot of a 0x10 block by its flag byte (R516). -/
theorem standardPilotCount_eq (data : List Byte) :
    standardPilotCount data = if 0x80 ≤ (data.headD 0).toNat then 3223 else 8063 := by
  cases data with
  | nil => rfl
  | cons flag rest =>
    rw [standardPilotCount, List.headD_cons]
    by_cases h : flag.toNat < 0x80
    · rw [if_pos h, if_neg (by omega)]
      rfl
    · rw [if_neg h, if_pos (by omega)]
      rfl

theorem flag_of_data_iff (data : List Byte) :
    (∃ flag rest, data = flag :: rest ∧ 0x80 ≤ flag.toNat) ↔ 0x80 ≤ (data.headD 0).toNat := by
  cases data <;> simp

theorem pause_dataEnd {d : Word} {tl : Timeline} (h : (TzxBlock.pause d).timeline = some tl) :
    tl.dataEnd = 0 ∧ tl.duration = d.toNat * 3500 := by
  cases h
  exact ⟨rfl, Nat.zero_add _⟩

/-- Settles O54: the phases by `Timeline.at_pilot`, `Timeline.at_sync` and `Timeline.at_rest`. -/
theorem pilotSyncPauseLevels : Obligations.PilotSyncPauseLevels := by
  refine ⟨fun b tl count length s1 s2 pos htl hb => ?_, fun tl pos h => ⟨fun hp => ?_, fun hp => ?_⟩,
    fun b tl pause data htl hb => ?_, fun d tl pos htl => ?_⟩
  · obtain ⟨hend, hlen, h1, h2⟩ :
        tl.pilotEnd = count * length ∧ tl.pilotPulse = length ∧ tl.sync1 = s1 ∧ tl.sync2 = s2 := by
      obtain ⟨pause, data, rfl, rfl, rfl, rfl, hcount⟩ | ⟨b0, b1, used, pause, data, rfl, hl, h1, h2, hc⟩ := hb
      · cases htl
        have hpilot : standardPilotCount data = count := by
          rw [standardPilotCount_eq]
          rw [flag_of_data_iff] at hcount
          obtain ⟨rfl, h⟩ | ⟨rfl, h⟩ := hcount
          · exact if_pos h
          · exact if_neg h
        exact ⟨by rw [← hpilot]; rfl, rfl, rfl, rfl⟩
      · cases htl
        simp [Timeline.pilotEnd, Nat.mod_eq_of_lt, hl, h1, h2, hc]
    have hsync : tl.syncEnd = count * length + s1 + s2 := by rw [Timeline.syncEnd, hend, h1, h2]
    refine ⟨fun h => ?_, fun hlow h => ?_, fun hlow h => ?_⟩
    · rw [Timeline.at_pilot (by omega), hlen]
      rfl
    · rw [Timeline.at_sync (by omega) (by omega), decide_eq_false (by omega)]
    · rw [Timeline.at_sync (by omega) (by omega), decide_eq_true (by omega)]
  · rw [Timeline.at_rest h, if_pos hp]
  · rw [Timeline.at_rest h, if_neg (by omega)]
  · obtain rfl | ⟨p, s1, s2, b0, b1, tone, used, rfl⟩ := hb <;> cases htl <;> exact ⟨rfl, rfl⟩
  · obtain ⟨hend, hdur⟩ := pause_dataEnd htl
    refine ⟨hdur, fun hp => ?_⟩
    rw [Timeline.at_rest (by omega), if_pos hp]
    exact ⟨rfl, rfl⟩

/-! ### Data bits (R518) -/

theorem bitsOf_get (v : Byte) {i : Nat} (hi : i < 8) : (bitsOf v)[i]? = some (v.getLsbD (7 - i)) := by
  interval_cases i <;> rfl

theorem flatMap_bitsOf_length (data : List Byte) : (data.flatMap bitsOf).length = 8 * data.length := by
  induction data with
  | nil => rfl
  | cons v rest ih =>
    rw [List.flatMap_cons, List.length_append, ih, List.length_cons]
    show 8 + _ = _
    omega

/-- Bit `k` of the data is bit 7 - k mod 8 of byte k div 8. -/
theorem flatMap_bitsOf_get (data : List Byte) (k : Nat) :
    (data.flatMap bitsOf)[k]? = data[k / 8]?.map fun v => v.getLsbD (7 - k % 8) := by
  induction data generalizing k with
  | nil => rfl
  | cons v rest ih =>
    rw [List.flatMap_cons]
    by_cases hk : k < 8
    · rw [List.getElem?_append_left hk, bitsOf_get v hk, Nat.div_eq_of_lt hk, Nat.mod_eq_of_lt hk]
      rfl
    · have hlen : (bitsOf v).length = 8 := rfl
      rw [List.getElem?_append_right (by omega), hlen, ih, show k / 8 = (k - 8) / 8 + 1 by omega,
        List.getElem?_cons_succ, show (k - 8) % 8 = k % 8 by omega]

/-- The bits sent: all but the unused ones of the last byte. -/
theorem sentBits_length (data : List Byte) (used : Nat) :
    (sentBits data used).length = if data = [] then 0 else 8 * data.length - (8 - used) := by
  rw [sentBits, List.length_take, flatMap_bitsOf_length]
  split
  · rename_i h
    simp [h]
  · omega

theorem sentBits_get {data : List Byte} {used k : Nat} (hk : k < (sentBits data used).length) :
    ∃ byte, data[k / 8]? = some byte ∧ (sentBits data used)[k]? = some (byte.getLsbD (7 - k % 8)) := by
  have hmore := hk.trans_le (List.length_take_le' _ _)
  rw [sentBits, List.getElem?_take_of_lt (hk.trans_le (List.length_take_le _ _)), flatMap_bitsOf_get]
  rw [flatMap_bitsOf_length] at hmore
  obtain ⟨byte, hbyte⟩ : ∃ byte, data[k / 8]? = some byte := ⟨_, List.getElem?_eq_getElem (by omega)⟩
  exact ⟨byte, hbyte, by rw [hbyte]; rfl⟩

/-- Settles O55: the point of a bit by `Timeline.bitPoint_get`, the bits by `sentBits_length` and `sentBits_get`. -/
theorem dataBitLevels : Obligations.DataBitLevels := by
  refine ⟨fun tl k start bit pos hk hstart hlow hhigh => ?_, fun tl => ?_, fun b data used half0 half1 syncEnd hb => ?_⟩
  · rw [← Timeline.bitsLength_eq_sum] at hstart
    have h := tl.bitPoint_get (n := 0) (pos := pos - tl.syncEnd) hk (by omega) (by rw [Timeline.half]; omega)
    rw [Timeline.at_data (by omega) h, Nat.zero_add]
    simp only [TapePoint.mk.injEq, and_true, Timeline.half]
    refine decide_eq_decide.mpr ?_
    omega
  · rw [Timeline.dataEnd, Timeline.bitsLength_eq_sum]
  · obtain ⟨pause, rfl, rfl, rfl, rfl, rfl⟩ |
      ⟨p, s1, s2, b0, b1, tone, u, pause, rfl, rfl, h1, h8, rfl, rfl, rfl⟩ := hb
    · refine ⟨_, rfl, rfl, rfl, ?_, sentBits_length _ _, fun k => sentBits_get⟩
      rw [← standardPilotCount_eq]
      rfl
    · exact ⟨_, rfl, rfl, rfl, rfl, sentBits_length _ _, fun k => sentBits_get⟩

/-! ### Tape files (R490 to R509) -/

/-- The registry as the rule lists it (R493). -/
theorem mem_tzxRegistry_iff (id : Byte) :
    id ∈ tzxRegistry ↔
      id.toNat ∈ [0x10, 0x11, 0x12, 0x13, 0x14, 0x15, 0x16, 0x17, 0x18, 0x19, 0x20, 0x21, 0x22, 0x23, 0x24, 0x25, 0x26,
        0x27, 0x28, 0x2A, 0x2B, 0x30, 0x31, 0x32, 0x33, 0x34, 0x35, 0x40, 0x5A] := by
  revert id
  decide

/-- The loop of `ReadContent` over blocks in their layouts. -/
theorem readBlocks_list {list : List (TzxBlock × List Byte)} (h : ∀ x ∈ list, x.1.LaidOut x.2) (fuel o : Nat)
    (rest : List Byte) :
    readBlocks (fuel + list.length) o (list.flatMap (fun x => x.2) ++ rest) =
      (readBlocks fuel (o + (list.flatMap fun x => x.2).length) rest).map (list.map (fun x => x.1) ++ ·) := by
  induction list generalizing o with
  | nil => cases h' : readBlocks fuel o rest <;> simp [h', Except.map]
  | cons x list ih =>
    rw [List.flatMap_cons, List.append_assoc, List.length_cons, ← Nat.add_assoc, readBlocks_laidOut (h x (by simp)),
      ih fun y hy => h y (by simp [hy]), List.length_append, Nat.add_assoc]
    cases readBlocks fuel (o + (x.2.length + (list.flatMap fun x => x.2).length)) rest <;> rfl

theorem TzxBlock.LaidOut.length_pos {b : TzxBlock} {bytes : List Byte} (h : b.LaidOut bytes) : 0 < bytes.length := by
  obtain ⟨body, rfl, -⟩ := h.body
  exact Nat.succ_pos _

theorem length_le_flatMap {list : List (TzxBlock × List Byte)} (h : ∀ x ∈ list, x.1.LaidOut x.2) :
    list.length ≤ (list.flatMap fun x => x.2).length := by
  induction list with
  | nil => exact Nat.le_refl 0
  | cons x list ih =>
    have hx := (h x (by simp)).length_pos
    have hl := ih fun y hy => h y (by simp [hy])
    rw [List.flatMap_cons, List.length_append, List.length_cons]
    omega

/-- `ReadContent` of a file that begins with a header and blocks in their layouts; `fuel` is what is left for the rest. -/
theorem readContent_list {list : List (TzxBlock × List Byte)} (h : ∀ x ∈ list, x.1.LaidOut x.2) (major minor : Byte)
    {file : List Byte} (hfile : file = [0x5A, 0x58, 0x54, 0x61, 0x70, 0x65, 0x21, 0x1A, major, minor] ++
      list.flatMap (fun x => x.2)) (rest : List Byte) :
    ∃ fuel, readContent (file ++ rest) =
      (readBlocks (fuel + 1) file.length rest).map (list.map (fun x => x.1) ++ ·) := by
  have hle := length_le_flatMap h
  have hlen : file.length = 10 + (list.flatMap fun x => x.2).length := by rw [hfile, List.length_append]; rfl
  refine ⟨(file ++ rest).length - list.length - 1, ?_⟩
  have hfuel : (file ++ rest).length - list.length - 1 + 1 + list.length = (file ++ rest).length := by
    rw [List.length_append]
    omega
  rw [readContent, if_neg, hlen, ← readBlocks_list h, hfuel, hfile]
  · rfl
  · rintro (hs | hs)
    · rw [List.length_append] at hs
      omega
    · exact hs (by rw [hfile]; rfl)

theorem readBlocks_unknown (fuel o : Nat) {id : Byte} (h : id ∉ tzxRegistry) (rest : List Byte) :
    readBlocks (fuel + 1) o (id :: rest) = .error (.unknownBlock id o) := by
  rw [readBlocks, if_neg (by simpa using h)]

/-- A block cut short behind its ID has no `BodyLength` (R495). -/
theorem readBlocks_truncated (fuel o : Nat) {b : TzxBlock} {bytes : List Byte} (h : b.LaidOut bytes) {k : Nat} (hk : 0 < k)
    (hlt : k < bytes.length) : readBlocks (fuel + 1) o (bytes.take k) = .error (.truncated b.id o) := by
  obtain ⟨body, rfl, hid, -, hlen, -⟩ := h.body
  obtain ⟨j, rfl⟩ := Nat.exists_eq_succ_of_ne_zero hk.ne'
  rw [List.take_succ_cons, readBlocks, if_pos hid, bodyLength_take hlen (Nat.lt_of_succ_lt_succ hlt)]

/-- Settles O59: a turn of the loop for each block, and then how it ends. -/
theorem tapeFilesReadOrFail : Obligations.TapeFilesReadOrFail := by
  refine ⟨fun file h => if_pos h, fun major minor list file h hfile => ⟨?_, fun id rest hid => ?_,
    fun b bytes k hb hk hlt => ?_⟩, fun file s e h => ?_⟩
  · obtain ⟨fuel, hr⟩ := readContent_list h major minor hfile []
    rw [List.append_nil, readBlocks] at hr
    rw [hr]
    simp [Except.map]
  · obtain ⟨fuel, hr⟩ := readContent_list h major minor hfile (id :: rest)
    rw [hr, readBlocks_unknown _ _ (mt (mem_tzxRegistry_iff id).mp hid)]
    rfl
  · obtain ⟨fuel, hr⟩ := readContent_list h major minor hfile (bytes.take k)
    rw [hr, readBlocks_truncated _ _ hb hk hlt]
    rfl
  · rw [loadTape, h]
    exact ⟨rfl, rfl⟩

/-! ### Playback classes (R510) -/

/-- The class of a block ID, but for 0x20, whose class is that of its duration (R510). -/
def classOfId (id : Byte) : PlaybackClass :=
  if id.toNat ∈ [0x10, 0x11] then .playable
  else if id.toNat ∈ [0x21, 0x22, 0x30, 0x31, 0x32, 0x33, 0x35, 0x5A, 0x16, 0x17, 0x34, 0x40] then .skipped
  else .refused

theorem cswRecordingOf_class (body : List Byte) :
    (cswRecordingOf body).id = 0x18 ∧ (cswRecordingOf body).playback = .refused := by
  unfold cswRecordingOf
  split <;> exact ⟨rfl, rfl⟩

theorem generalizedDataOf_class (body : List Byte) :
    (generalizedDataOf body).id = 0x19 ∧ (generalizedDataOf body).playback = .refused := by
  unfold generalizedDataOf
  split <;> exact ⟨rfl, rfl⟩

theorem selectBlockOf_class (body : List Byte) :
    (selectBlockOf body).id = 0x28 ∧ (selectBlockOf body).playback = .refused := by
  cases body <;> exact ⟨rfl, rfl⟩

theorem setSignalLevelOf_class (body : List Byte) :
    (setSignalLevelOf body).id = 0x2B ∧ (setSignalLevelOf body).playback = .refused := by
  cases body <;> exact ⟨rfl, rfl⟩

theorem archiveInfoOf_class (body : List Byte) :
    (archiveInfoOf body).id = 0x32 ∧ (archiveInfoOf body).playback = .skipped := by
  cases body <;> exact ⟨rfl, rfl⟩

/-- What the decoder gives under an ID of the registry keeps the ID and has its class. -/
theorem decodeTapeBlock_class {id : Byte} (h : id ∈ tzxRegistry) (hne : id ≠ 0x20) (body : List Byte) :
    (decodeTapeBlock id body).id = id ∧ (decodeTapeBlock id body).playback = classOfId id := by
  fin_cases h
  -- The six IDs whose blocks have a function or a class of their own, the last of the registry's order first.
  on_goal 22 => exact archiveInfoOf_class _
  on_goal 19 => exact setSignalLevelOf_class _
  on_goal 17 => exact selectBlockOf_class _
  on_goal 9 => exact absurd rfl hne
  on_goal 8 => exact generalizedDataOf_class body
  on_goal 7 => exact cswRecordingOf_class body
  all_goals exact ⟨rfl, rfl⟩

/-- The class of a 0x20 block is that of its duration. -/
theorem decodeTapeBlock_pause (body : List Byte) :
    (decodeTapeBlock 0x20 body).id = 0x20 ∧ (decodeTapeBlock 0x20 body).playback =
      if body.getD 0 0 = 0 ∧ body.getD 1 0 = 0 then .refused else .playable := by
  refine ⟨rfl, ?_⟩
  show (if wordField body 0 = 0 then _ else _) = _
  have hw : wordField body 0 = 0 ↔ body.getD 0 0 = 0 ∧ body.getD 1 0 = 0 := by
    have hword : (wordField body 0).toNat = (body.getD 1 0).toNat * 256 + (body.getD 0 0).toNat := word_toNat _ _
    rw [← BitVec.toNat_inj, ← BitVec.toNat_inj, ← BitVec.toNat_inj, hword]
    show _ = 0 ↔ _ = 0 ∧ _ = 0
    omega
  simp only [hw]

/-- The classes of R510. -/
theorem classOfId_cases {id : Byte} (h : id ∈ tzxRegistry) (hne : id ≠ 0x20) :
    (classOfId id = .playable ↔ id.toNat ∈ [0x10, 0x11]) ∧
    (classOfId id = .skipped ↔ id.toNat ∈ [0x21, 0x22, 0x30, 0x31, 0x32, 0x33, 0x35, 0x5A, 0x16, 0x17, 0x34, 0x40]) ∧
    (classOfId id = .refused ↔
      id.toNat ∈ [0x12, 0x13, 0x14, 0x15, 0x18, 0x19, 0x23, 0x24, 0x25, 0x26, 0x27, 0x28, 0x2A, 0x2B]) := by
  revert id
  decide

/-- The class of every block ID of the registry (R510). -/
theorem decodeTapeBlock_classes (id : Byte) (body : List Byte)
    (hid : id.toNat ∈ [0x10, 0x11, 0x12, 0x13, 0x14, 0x15, 0x16, 0x17, 0x18, 0x19, 0x20, 0x21, 0x22, 0x23, 0x24, 0x25,
      0x26, 0x27, 0x28, 0x2A, 0x2B, 0x30, 0x31, 0x32, 0x33, 0x34, 0x35, 0x40, 0x5A]) :
    (decodeTapeBlock id body).id = id ∧
    ((decodeTapeBlock id body).playback = .playable ↔
      id.toNat ∈ [0x10, 0x11] ∨ id = 0x20 ∧ ¬(body.getD 0 0 = 0 ∧ body.getD 1 0 = 0)) ∧
    ((decodeTapeBlock id body).playback = .skipped ↔
      id.toNat ∈ [0x21, 0x22, 0x30, 0x31, 0x32, 0x33, 0x35, 0x5A, 0x16, 0x17, 0x34, 0x40]) ∧
    ((decodeTapeBlock id body).playback = .refused ↔
      id.toNat ∈ [0x12, 0x13, 0x14, 0x15, 0x18, 0x19, 0x23, 0x24, 0x25, 0x26, 0x27, 0x28, 0x2A, 0x2B] ∨
        id = 0x20 ∧ body.getD 0 0 = 0 ∧ body.getD 1 0 = 0) := by
  have hmem := (mem_tzxRegistry_iff id).mpr hid
  by_cases h20 : id = 0x20
  · subst h20
    obtain ⟨hkeeps, hclass⟩ := decodeTapeBlock_pause body
    rw [hclass]
    by_cases h0 : body.getD 0 0 = 0 ∧ body.getD 1 0 = 0
    · rw [if_pos h0]
      simp only [h0]
      exact ⟨hkeeps, by decide, by decide, by decide⟩
    · rw [if_neg h0]
      simp only [h0]
      exact ⟨hkeeps, by decide, by decide, by decide⟩
  · obtain ⟨hkeeps, hclass⟩ := decodeTapeBlock_class hmem h20 body
    rw [hclass]
    simp only [h20, false_and, or_false]
    exact ⟨hkeeps, classOfId_cases hmem h20⟩

/-! ### The order of the blocks (R513, R514, R522, R525) -/

/-- Skipped blocks are passed over (R522). -/
theorem nextUnskipped_append {skipped : List TzxBlock} (h : ∀ b ∈ skipped, b.playback = .skipped) (more : List TzxBlock)
    (i : Nat) : nextUnskipped (skipped ++ more) i = nextUnskipped more (i + skipped.length) := by
  induction skipped generalizing i with
  | nil => rfl
  | cons b rest ih =>
    rw [List.cons_append, nextUnskipped, if_pos (h b (by simp)), ih fun c hc => h c (by simp [hc]), List.length_cons]
    congr 1
    omega

section
variable {p : Tape} {before skipped rest : List TzxBlock} {b : TzxBlock} {s : Nat}

theorem Tape.blocks_ahead (hi : p.currentBlockIndex + 1 = (before.length : Int)) (more : List TzxBlock)
    (hp : p.blocks = before ++ more) :
    (p.currentBlockIndex + 1).toNat = before.length ∧ p.blocks.drop before.length = more := by
  rw [hi, hp, List.drop_left]
  exact ⟨rfl, rfl⟩

/-- Only skipped blocks ahead: the player is completed. -/
theorem Tape.nextBlock_of_skipped (hi : p.currentBlockIndex + 1 = (before.length : Int))
    (hs : ∀ b ∈ skipped, b.playback = .skipped) (hp : p.blocks = before ++ skipped) :
    Tape.nextBlock s p = .next { p with playPhase := .completed, currentBlock := none } := by
  obtain ⟨hindex, hdrop⟩ := Tape.blocks_ahead hi skipped hp
  have hn := nextUnskipped_append hs [] before.length
  rw [List.append_nil] at hn
  simp only [Tape.nextBlock, hindex, hdrop, hn, nextUnskipped]

/-- Skipped blocks ahead and then another: the player turns to that one. -/
theorem Tape.nextBlock_of_unskipped (hi : p.currentBlockIndex + 1 = (before.length : Int))
    (hs : ∀ b ∈ skipped, b.playback = .skipped) (hp : p.blocks = before ++ skipped ++ b :: rest)
    (hb : b.playback ≠ .skipped) : Tape.nextBlock s p = p.initPlayBlock (before.length + skipped.length) b s := by
  obtain ⟨hindex, hdrop⟩ := Tape.blocks_ahead hi (skipped ++ b :: rest) (by rw [hp, List.append_assoc])
  simp only [Tape.nextBlock, hindex, hdrop, nextUnskipped_append hs, nextUnskipped, if_neg hb]

/-- A block without playback, or with used bits out of range, is refused (R510, R514). -/
theorem Tape.initPlayBlock_refused {index : Nat} (h : ¬(b.playback = .playable ∧ b.usedBitsOk = true)) :
    p.initPlayBlock index b s = .refused (.unsupportedTapeBlock b.id) := by
  unfold Tape.initPlayBlock
  split
  · rfl
  · rw [if_neg h]

theorem Tape.initPlayBlock_playable {index : Nat} {tl : Timeline} (htl : b.timeline = some tl) (hb : b.playback = .playable)
    (hu : b.usedBitsOk = true) :
    p.initPlayBlock index b s = .next { p with
      currentBlockIndex := index, currentBlock := some b, blockStart := s, blockPhase := (tl.at 0).phase
      byteIndex := 0, bitMask := 0x80 } := by
  simp only [Tape.initPlayBlock, htl]
  rw [if_pos ⟨hb, hu⟩]

end

/-- The player that `InitPlay(t)` hands to `NextBlock` (R513). -/
def Tape.rewound (t : Nat) (p : Tape) : Tape :=
  { p with playing := true, playPhase := .none, currentBlockIndex := -1, currentBlock := none, lastQueryTact := t }

theorem TzxBlock.usedBitsOk_of {b : TzxBlock}
    (h : ∀ pilot s1 s2 b0 b1 tone used pause data, b = .turboSpeed pilot s1 s2 b0 b1 tone used pause data →
      1 ≤ used.toNat ∧ used.toNat ≤ 8) : b.usedBitsOk = true := by
  cases b with
  | turboSpeed pilot s1 s2 b0 b1 tone used pause data => simpa [TzxBlock.usedBitsOk] using h _ _ _ _ _ _ _ _ _ rfl
  | _ => rfl

/-- A 0x10 block begins with its pilot (R514, R516). -/
theorem standardSpeed_starts_pilot {pause : Word} {data : List Byte} {tl : Timeline}
    (h : (TzxBlock.standardSpeed pause data).timeline = some tl) : (tl.at 0).phase = .pilot := by
  cases h
  rw [Timeline.at_pilot]
  show 0 < standardPilotCount data * 2168
  rw [standardPilotCount_eq]
  split <;> decide

/-- Settles O56: the classes by `decodeTapeBlock_classes`; `NextBlock` by `nextUnskipped_append` and what starting a block
does; `InitPlay` is `NextBlock` from the list's beginning. -/
theorem blocksStartInOrder : Obligations.BlocksStartInOrder := by
  refine ⟨decodeTapeBlock_classes, fun p s before skipped hi hs => ⟨Tape.nextBlock_of_skipped hi hs, fun b rest hp =>
    ⟨fun hb => ?_, fun pilot s1 s2 b0 b1 tone used pause data hb hu => ?_, fun hb hu => ?_⟩⟩,
    fun p t skipped hs => ⟨rfl, fun hp => ?_, fun pause data rest hp => ?_⟩⟩
  · rw [Tape.nextBlock_of_unskipped hi hs hp (by simp [hb]), Tape.initPlayBlock_refused (by simp [hb])]
  · subst hb
    rw [Tape.nextBlock_of_unskipped hi hs hp nofun, Tape.initPlayBlock_refused]
    · rfl
    · simp only [TzxBlock.usedBitsOk, Bool.and_eq_true, decide_eq_true_eq]
      omega
  · obtain ⟨tl, htl⟩ := TzxBlock.timeline_of_playable hb
    refine ⟨tl, htl, ?_⟩
    rw [Tape.nextBlock_of_unskipped hi hs hp (by simp [hb]),
      Tape.initPlayBlock_playable htl hb (TzxBlock.usedBitsOk_of hu)]
  · exact ⟨_, Tape.nextBlock_of_skipped (p := p.rewound t) (before := []) rfl hs hp, rfl, rfl, rfl, rfl⟩
  · exact ⟨_, (Tape.nextBlock_of_unskipped (p := p.rewound t) (before := []) rfl hs hp nofun).trans
      (Tape.initPlayBlock_playable rfl rfl rfl), rfl, by simp, rfl, standardSpeed_starts_pilot rfl, rfl, rfl, rfl, rfl,
      rfl, rfl⟩

end Sys2Proof.Machine
end


section
/-! PROOFS of the statements of 60_exceptions.md. `StopsOnly` says by which refusals an outcome can stop; `exec_stops` and
`step_stops` bring every instruction and every step down to what the devices can refuse. -/

namespace Sys2Proof.Machine

/-! ### How a step can stop (R550, R565, R566) -/

/-- The outcome is a next value, or a refusal among those of `P`; no fault. -/
def StopsOnly {α : Type} (P : Refusal → Prop) : Host.Outcome α Fault Refusal → Prop
  | .next _ => True
  | .fault _ => False
  | .refused r => P r

section
variable {α β : Type} {P : Refusal → Prop} {o : Host.Outcome α Fault Refusal}

theorem StopsOnly.andThen {k : α → Host.Outcome β Fault Refusal} (ho : StopsOnly P o)
    (hk : ∀ x, o = .next x → StopsOnly P (k x)) : StopsOnly P (andThen o k) := by
  cases o with
  | next x => exact hk x rfl
  | fault e => exact ho.elim
  | refused r => exact ho

theorem StopsOnly.not_fault (h : StopsOnly P o) (e : Fault) : o ≠ .fault e := by
  rintro rfl
  exact h

theorem StopsOnly.not_refused (h : StopsOnly P o) {r : Refusal} (hr : ¬P r) : o ≠ .refused r := by
  rintro rfl
  exact hr h

theorem StopsOnly.next_of_none (h : StopsOnly (fun _ => False) o) : ∃ x, o = .next x := by
  cases o with
  | next x => exact ⟨x, rfl⟩
  | fault e => exact h.elim
  | refused r => exact h.elim

theorem onlyUnsupported_iff : OnlyUnsupported o ↔ StopsOnly (fun r => ∃ id, r = .unsupportedTapeBlock id) o := by
  cases o <;> simp [OnlyUnsupported, StopsOnly]

end

section
variable {P : Refusal → Prop}

/-- From the tact of the state on the devices can stop a run by refusals of `P` only. -/
def State.DevicesStopOnly (P : Refusal → Prop) (s : State) : Prop :=
  ∀ t, s.cpu.tacts ≤ t → (s.ula.timeOk t = true ∨ P .nonMonotonicDeviceTact) ∧
    (s.tape.loaded = true ∧ s.tape.playing = true → StopsOnly P (s.tape.getEarBit t))

theorem State.tacts_le_charge (s : State) (n : Nat) (l : List Access) : s.cpu.tacts ≤ (s.charge n l).cpu.tacts :=
  (Nat.le_add_right _ n).trans (Nat.le_add_right _ _)

theorem portRead_stops {s : State} (h : s.DevicesStopOnly P) (p : Word) (n : Nat) (l : List Access) :
    StopsOnly P (portRead p (s.charge n l)) := by
  obtain ⟨hula, htape⟩ := h (s.charge n l).cpu.tacts (s.tacts_le_charge n l)
  unfold portRead
  split
  · split
    · refine StopsOnly.andThen ?_ fun _ _ => trivial
      unfold State.earInput
      split
      · rename_i hp
        exact (htape (by simpa using hp)).andThen fun _ _ => trivial
      · trivial
    · rename_i hlate
      exact hula.resolve_left hlate
  · trivial

theorem portWrite_stops {s : State} (h : s.DevicesStopOnly P) (p : Word) (v : Byte) (n : Nat) (l : List Access) :
    StopsOnly P (portWrite p v (s.charge n l)) := by
  obtain ⟨hula, -⟩ := h (s.charge n l).cpu.tacts (s.tacts_le_charge n l)
  unfold portWrite
  split
  · split
    · trivial
    · rename_i hlate
      exact hula.resolve_left hlate
  · trivial

theorem inBlock_stops {s : State} (h : s.DevicesStopOnly P) (dir : Dir) (n : Nat) : StopsOnly P (inBlock dir n s) :=
  (portRead_stops h _ _ _).andThen fun _ _ => trivial

theorem inBlockRepeat_stops {s : State} (h : s.DevicesStopOnly P) (dir : Dir) : StopsOnly P (inBlockRepeat dir s) := by
  unfold inBlockRepeat
  split
  · exact (inBlock_stops h dir 17).andThen fun _ _ => trivial
  · exact inBlock_stops h dir 12

theorem outBlock_stops {s : State} (h : s.DevicesStopOnly P) (dir : Dir) (n : Nat) : StopsOnly P (outBlock dir n s) :=
  (portWrite_stops (s := s.setReg .b (s.cpu.b - 1)) h _ _ _ _).andThen fun _ _ => trivial

theorem outBlockRepeat_stops {s : State} (h : s.DevicesStopOnly P) (dir : Dir) : StopsOnly P (outBlockRepeat dir s) := by
  unfold outBlockRepeat
  split
  · exact (outBlock_stops h dir 17).andThen fun _ _ => trivial
  · exact outBlock_stops h dir 12

/-- An instruction stops by a device, or on a term that is no instruction. -/
theorem exec_stops {i : Instr} {s : State} (h : s.DevicesStopOnly P)
    (hi : i.wellFormed = true ∨ P .illFormedInstruction) : StopsOnly P (exec i s) := by
  induction i with
  | inAN n => exact (portRead_stops h _ _ _).andThen fun _ _ => trivial
  | inRC r => exact (portRead_stops h _ _ _).andThen fun _ _ => trivial
  | inC => exact (portRead_stops h _ _ _).andThen fun _ _ => trivial
  | ini => exact inBlock_stops h .inc 12
  | ind => exact inBlock_stops h .dec 12
  | inir => exact inBlockRepeat_stops h .inc
  | indr => exact inBlockRepeat_stops h .dec
  | outNA n => exact (portWrite_stops h _ _ _ _).andThen fun _ _ => trivial
  | outCR r => exact (portWrite_stops h _ _ _ _).andThen fun _ _ => trivial
  | outC0 => exact (portWrite_stops h _ _ _ _).andThen fun _ _ => trivial
  | outi => exact outBlock_stops h .inc 12
  | outd => exact outBlock_stops h .dec 12
  | otir => exact outBlockRepeat_stops h .inc
  | otdr => exact outBlockRepeat_stops h .dec
  | prefixIgnored x i ih =>
    rw [exec_prefixIgnored]
    split
    · rename_i hp
      exact ih (.inl (wellFormed_of_ignoresPrefix hp))
    · rename_i hp
      exact hi.resolve_left hp
  | _ => trivial

end

/-! ### Decoding is total (R566) -/

/-- In every prefix-mode state three bytes decode to an instruction: the tables have a row for every opcode. -/
theorem decode_total (p : Pfx) (b0 b1 b2 : Byte) : ∃ i rest, decode p [b0, b1, b2] = .ok (i, rest) := by
  cases p with
  | cb | ddcb | fdcb => exact ⟨_, _, rfl⟩
  | none | ed | dd | fd =>
    cases b0 using byFields with
    | x0 y z | x1 y z | x2 y z | x3 y z => cases y using octal <;> cases z using octal <;> exact ⟨_, _, rfl⟩

/-- A fetch always answers, and with a term that stands for an encoding. -/
theorem State.fetch_total (s : State) : ∃ i n, s.fetch = .next (i, s.afterFetch n) ∧ i.wellFormed = true := by
  obtain ⟨i, rest, h⟩ :=
    decode_total s.cpu.pfx (s.memRead s.cpu.pc) (s.memRead (s.cpu.pc + 1)) (s.memRead (s.cpu.pc + 2))
  exact ⟨i, _, State.fetch_next.mpr ⟨rest, h, rfl⟩, (encodeReadsBackDecode _ _ _ _ h).1⟩

/-! ### Steps (R550, R565) -/

theorem State.ulaTimed.ulaTime {s : State} (h : s.ulaTimed) : UlaTime s.ula s.cpu.tacts := by
  obtain ⟨hstart, hle, -, hflash, hlow, hhigh⟩ := h
  unfold State.frameTact at hhigh
  exact ⟨hstart, hle, hflash, hlow, by omega⟩

section
variable {P : Refusal → Prop} {s : State}

theorem fetchAndExecute_stops (h : s.DevicesStopOnly P) : StopsOnly P (fetchAndExecute s) := by
  obtain ⟨i, n, hf, hi⟩ := s.fetch_total
  rw [fetchAndExecute, hf]
  refine exec_stops (fun t ht => ?_) (.inl hi)
  simp only [State.afterFetch_ula, State.afterFetch_tape]
  exact h t ((s.tacts_le_charge 0 _).trans (by simpa [State.afterFetch_cpu] using ht))

theorem runStep_stops (h : s.DevicesStopOnly P) : StopsOnly P (runStep s) := by
  unfold runStep
  split
  · trivial
  · exact fetchAndExecute_stops h

theorem cpuStep_stops (h : s.DevicesStopOnly P) : StopsOnly P (cpuStep s) := by
  unfold cpuStep sampleAndRun
  split
  · simp only
    split
    · trivial
    · split
      · trivial
      · exact runStep_stops (s := s.setEiBlock false) h
  · exact runStep_stops h

/-- A step stops where the ULA's time is wrong, or where the tape's player stops. -/
theorem step_stops (hula : s.ulaTimed ∨ P .nonMonotonicDeviceTact)
    (htape : ∀ t, s.cpu.tacts ≤ t → s.tape.loaded = true ∧ s.tape.playing = true →
      StopsOnly P (s.tape.getEarBit t)) :
    StopsOnly P (step s) := by
  have hdev : s.DevicesStopOnly P := fun t ht => ⟨hula.imp_left fun h => (h.ulaTime.mono ht).timeOk, htape t ht⟩
  refine (cpuStep_stops hdev).andThen fun u hu => ?_
  unfold State.finishStep
  split
  · trivial
  · rename_i hlate
    exact hula.resolve_left fun h => hlate ((cpuStep_effect hu).ulaTime h).timeOk

end

theorem Tape.advance_stops (fuel t : Nat) (p : Tape) : OnlyUnsupported (Tape.advance fuel t p) := by
  induction fuel generalizing p with
  | zero => exact .next p
  | succ n ih =>
    by_cases hc : p.playPhase = .completed
    · rw [Tape.advance_completed _ hc]
      exact .next p
    cases hb : p.currentBlock.bind TzxBlock.timeline with
    | none =>
      rw [Tape.advance_none _ hb]
      exact .next p
    | some tl =>
      by_cases ht : t < p.blockStart + tl.duration
      · rw [Tape.advance_before _ hb ht]
        exact .next p
      · rw [Tape.advance_after _ hc hb (by omega)]
        exact (Tape.nextBlock_stops _ _).andThen fun q _ => ih q

/-- A query of any player, reached or not, has no fault and no refusal of the CPU's. -/
theorem Tape.getEarBit_stops (p : Tape) (t : Nat) : StopsOnly (· ≠ .unmappedOpcode) (p.getEarBit t) := by
  unfold Tape.getEarBit
  split
  · exact nofun
  · refine StopsOnly.andThen ?_ fun q _ => ?_
    · obtain ⟨q, hq⟩ | ⟨id, hid⟩ := Tape.advance_stops (p.blocks.length + 1) t { p with lastQueryTact := t }
      · rw [hq]
        trivial
      · rw [hid]
        exact nofun
    · unfold Tape.sample
      split
      · trivial
      · exact nofun
      · trivial

/-- Settles O48: by `exec_stops`, `decode_total` and `step_stops`, whatever the devices refuse. -/
theorem noFaultAndTotalDecode : Obligations.NoFaultAndTotalDecode := by
  have htape (s : State) (t : Nat) (_ : s.cpu.tacts ≤ t) (_ : s.tape.loaded = true ∧ s.tape.playing = true) :
      StopsOnly (· ≠ .unmappedOpcode) (s.tape.getEarBit t) := s.tape.getEarBit_stops t
  have hstep (s : State) : StopsOnly (· ≠ .unmappedOpcode) (step s) := step_stops (.inr nofun) (htape s)
  refine ⟨fun i s => (exec_stops (fun t ht => ⟨.inr nofun, htape s t ht⟩) (.inr nofun)).not_fault, decode_total,
    fun s => (hstep s).not_fault, fun s => (hstep s).not_refused (not_not_intro rfl)⟩

/-- Settles O49: the invariant gives both devices the right time, and so `step_stops` leaves the tape's refusal. -/
theorem stepsAlwaysAnswer : Obligations.StepsAlwaysAnswer := by
  rintro s ⟨-, hula, htape, -⟩
  constructor
  · refine onlyUnsupported_iff.mpr (step_stops (.inl hula) fun t ht hp => onlyUnsupported_iff.mp ?_)
    exact (((s.tapeTimed_iff.mp htape) hp.2).mono ht).getEarBit.1
  · exact fun hp => (step_stops (.inl hula) fun _ _ h => absurd h hp).next_of_none

/-! ### What a step accepts at an instruction boundary (R551 to R554) -/

theorem cpuStep_of_nmi {s : State} (hp : s.cpu.pfx = .none) (hn : s.cpu.nmiPending = true) :
    cpuStep s = .next (acceptNmi (s.setEiBlock false)) := by
  simp [cpuStep_boundary hp, sampleAndRun, hn]

theorem cpuStep_of_interrupted {s : State} (h : s.interrupted) : cpuStep s = .next (acceptInt s) := by
  obtain ⟨hp, hn, hiff, hei, hlow, hhigh⟩ := h
  have hs : s.setEiBlock false = s := by rw [← hei]; rfl
  simp [cpuStep_boundary hp, sampleAndRun, hs, hn, hiff, hei, State.intLine, hlow, hhigh, intPulseTacts]

theorem cpuStep_of_halted {s : State} (hp : s.cpu.pfx = .none) (hh : s.cpu.halted = true) (hq : s.quiet) :
    cpuStep s = .next (haltedCycle (s.setEiBlock false)) := by
  obtain ⟨hn, hi⟩ := (s.quiet_iff.mp hq).resolve_left (· hp)
  have hl : (s.setEiBlock false).intLine = s.intLine := rfl
  simp [cpuStep_boundary hp, sampleAndRun, runStep, hn, hi, hh, hl]

/-- At an instruction boundary an NMI is taken, or an INT, or nothing. -/
theorem State.boundary_cases {s : State} (hp : s.cpu.pfx = .none) :
    s.cpu.nmiPending = true ∨ s.interrupted ∨ s.quiet := by
  by_cases hn : s.cpu.nmiPending = true
  · exact .inl hn
  · by_cases hi : s.interrupted
    · exact .inr (.inl hi)
    · exact .inr (.inr (.inr ⟨by simpa using hn, fun h => hi ⟨hp, by simpa using hn, h⟩⟩))

/-- A quiet step of a CPU that is not halted executes what stands at PC (R113). -/
theorem cpuStep_of_decode {s : State} {i : Instr} {rest : List Byte} (hh : s.cpu.halted = false) (hq : s.quiet)
    (hd : decode s.cpu.pfx s.fetchWindow = .ok (i, rest)) : cpuStep s = exec i (s.fetched (3 - rest.length)) := by
  have hf : s.sampled.fetch = .next (i, s.fetched (3 - rest.length)) :=
    State.fetch_next.mpr ⟨rest, hd, (s.sampled_afterFetch _).symm⟩
  rw [cpuStep_of_quiet hh hq, fetchAndExecute, hf]
  rfl

section
variable {s u t : State} {cpu : Cpu} {M : Memory → Prop}

/-- A step whose CPU part leaves the devices alone. -/
theorem StepSets.of_cpuStep (hula : s.ulaTimed) (h : cpuStep s = .next u) (hc : u.cpu = cpu) (hm : M u.mem)
    (hu : u.ula = s.ula) (ht : u.tape = s.tape) (he : u.env = s.env) : StepSets s cpu M := by
  have hok := ((cpuStep_effect h).ulaTime hula).timeOk
  refine ⟨_, step_next.mpr ⟨u, h, hok, rfl⟩, hc, hm, ?_, ht, he⟩
  rw [hu, hc]

/-- What a step leaves of the CPU and memory is what its CPU part leaves. -/
theorem step_cpu_mem (h : cpuStep s = .next u) (ht : step s = .next t) : t.cpu = u.cpu ∧ t.mem = u.mem := by
  obtain ⟨v, hv, -, rfl⟩ := step_next.mp ht
  rw [h] at hv
  cases hv
  exact ⟨rfl, rfl⟩

end

/-! ### INT acceptance (R555 to R558) -/

theorem acceptInt_im0 {s : State} (h : s.cpu.im = .im0) : acceptInt s = (s.acknowledge true).charge 6 [] := by
  rw [acceptInt, h]
  rfl

theorem acceptInt_im1 {s : State} (h : s.cpu.im = .im1) :
    acceptInt s = (s.acknowledge true).enterHandler (fun _ => 0x0038) 13 [] := by
  rw [acceptInt, h]
  rfl

theorem acceptInt_im2 {s : State} (h : s.cpu.im = .im2) :
    acceptInt s = (s.acknowledge true).enterHandler (fun t => t.memRead16 t.im2VectorAddress) 19
      [readAt (s.cpu.i ++ 0xFF#8), readAt ((s.cpu.i ++ 0xFF#8) + 1)] := by
  rw [acceptInt, h]
  rfl

/-- The handler entered from an acknowledge pushes PC. -/
theorem acknowledge_enterHandler_stored (s : State) (m : Bool) (target : State → Word) (n : Nat) (l : List Access) :
    StoredWord s.mem ((s.acknowledge m).enterHandler target n l).mem (s.cpu.sp - 2) s.cpu.pc := by
  simpa [State.acknowledge_cpu] using State.push_stored (s.acknowledge m) s.cpu.pc

/-- The word at the IM 2 vector address (R558), low byte first, mod 2^16. -/
theorem memRead16_im2Vector (s : State) :
    s.memRead16 s.im2VectorAddress =
      s.mem.read ((s.cpu.i.toNat * 256 + 256) % 65536) ++ s.mem.read (s.cpu.i.toNat * 256 + 255) := by
  have h : s.im2VectorAddress.toNat = s.cpu.i.toNat * 256 + 255 := word_toNat _ _
  unfold State.memRead16 State.memRead
  rw [BitVec.toNat_add, h]
  simp [word, Nat.add_assoc]

theorem acceptInt_im1_cpu {s : State} (h : s.cpu.im = .im1) :
    (acceptInt s).cpu =
      { s.cpu with
        halted := false, r := refreshed s.cpu.r, iff1 := false, iff2 := false
        sp := s.cpu.sp - 2, pc := 0x0038, memptr := 0x0038
        tacts := s.after 13 [writeAt (s.cpu.sp - 1), writeAt (s.cpu.sp - 2)] } := by
  simp [acceptInt_im1 h, State.enterHandler_cpu, State.acknowledge_cpu, nextR_eq_refreshed, State.after,
    State.pushAccesses]

theorem acceptInt_im2_cpu {s : State} (h : s.cpu.im = .im2) :
    ∃ target, (acceptInt s).cpu =
        { s.cpu with
          halted := false, r := refreshed s.cpu.r, iff1 := false, iff2 := false
          sp := s.cpu.sp - 2, pc := target, memptr := target
          tacts := s.after 19 [writeAt (s.cpu.sp - 1), writeAt (s.cpu.sp - 2), readAt (s.cpu.i ++ 0xFF#8),
            readAt ((s.cpu.i ++ 0xFF#8) + 1)] } ∧
      target = (acceptInt s).mem.read ((s.cpu.i.toNat * 256 + 256) % 65536) ++
        (acceptInt s).mem.read (s.cpu.i.toNat * 256 + 255) := by
  refine ⟨_, ?_, rfl⟩
  simp [acceptInt_im2 h, State.enterHandler_cpu, State.acknowledge_cpu, nextR_eq_refreshed, State.after,
    State.pushAccesses, memRead16_im2Vector]

theorem acceptInt_stored {s : State} (h : s.cpu.im ≠ .im0) :
    StoredWord s.mem (acceptInt s).mem (s.cpu.sp - 2) s.cpu.pc := by
  cases hm : s.cpu.im with
  | im0 => exact absurd hm h
  | im1 => exact acceptInt_im1 hm ▸ acknowledge_enterHandler_stored _ _ _ _ _
  | im2 => exact acceptInt_im2 hm ▸ acknowledge_enterHandler_stored _ _ _ _ _

theorem acceptInt_devices (s : State) : SameDevices s (acceptInt s) := by
  unfold acceptInt
  cases s.cpu.im <;> simp [SameDevices]

theorem acceptInt_halted (s : State) : (acceptInt s).cpu.halted = false := by
  unfold acceptInt
  cases s.cpu.im <;> simp [State.enterHandler_cpu, State.acknowledge_cpu]

/-- Settles O35: the sampling point accepts, each mode by its acceptance. -/
theorem interruptAcceptanceByMode : Obligations.InterruptAcceptanceByMode := by
  intro s c hula hi hc
  have h := cpuStep_of_interrupted hi
  obtain ⟨hu, ht, he⟩ := acceptInt_devices s
  refine ⟨fun hm => ?_, fun hm => ?_, fun hm => ?_⟩
  · refine .of_cpuStep hula h ?_ ?_ hu ht he <;> rw [acceptInt_im0 hm]
    · simp [hc, State.acknowledge_cpu, nextR_eq_refreshed, State.after]
    · rfl
  · exact .of_cpuStep hula h (hc ▸ acceptInt_im1_cpu hm) (acceptInt_stored (by simp [hm])) hu ht he
  · obtain ⟨target, hcpu, htarget⟩ := acceptInt_im2_cpu hm
    exact ⟨target, .of_cpuStep hula h (hc ▸ hcpu) ⟨acceptInt_stored (by simp [hm]), htarget⟩ hu ht he⟩

/-! ### HALT (R561, R562) -/

/-- Settles O37: nothing is accepted, and the cycle counts R and 4 tacts. -/
theorem haltedCycleAddsFourTacts : Obligations.HaltedCycleAddsFourTacts := by
  intro s hula hp hh hq
  refine .of_cpuStep hula (cpuStep_of_halted hp hh hq) ?_ rfl rfl rfl rfl
  simp [haltedCycle, nextR_eq_refreshed, State.after]

/-- No instruction clears `halted`. -/
theorem exec_keeps_halted {i : Instr} {s t : State} (h : exec i s = .next t) (hh : s.cpu.halted = true) :
    t.cpu.halted = true := by
  obtain ⟨w, hw⟩ := exec_maskedAfter h
  rw [hw]
  show (s.cpu.maskedAfter i).halted = true
  unfold Cpu.maskedAfter
  split <;> simp [hh]

/-- No host action but a reset changes `halted`. -/
theorem hostAct_keeps_halted {a : HostAction} {s t : State} (ha : ∀ draw, a ≠ .reset draw) (h : hostAct a s = .next t) :
    t.cpu.halted = s.cpu.halted := by
  cases a with
  | reset draw => exact absurd rfl (ha draw)
  | requestNmi | setKeyboard k =>
    cases h
    rfl
  | loadTape file =>
    cases h
    simp only [loadTape]
    split <;> rfl
  | startTape =>
    obtain ⟨p, -, hp⟩ := andThen_next.mp h
    cases hp
    rfl

/-- Settles O38: a step by what the sampling point takes, an NMI, an INT or nothing. -/
theorem haltLeftAtThreeEventsOnly : Obligations.HaltLeftAtThreeEventsOnly := by
  refine ⟨fun s t hp hh h => ?_, fun i s t => exec_keeps_halted, fun _ _ => rfl, fun a s t => hostAct_keeps_halted⟩
  have hnot (hi : s.interrupted) : s.cpu.nmiPending ≠ true := by simp [hi.2.1]
  obtain hn | hi | hq := State.boundary_cases hp
  · obtain ⟨hc, hm⟩ := step_cpu_mem (cpuStep_of_nmi hp hn) h
    rw [hc, hm, acceptNmi_cpu]
    exact ⟨⟨fun _ => .inl hn, fun _ => rfl⟩, nofun, fun _ => acceptNmi_stored (s.setEiBlock false),
      fun hi => absurd hn (hnot hi.1)⟩
  · obtain ⟨hc, hm⟩ := step_cpu_mem (cpuStep_of_interrupted hi) h
    have hf := acceptInt_halted s
    rw [hc, hm]
    exact ⟨⟨fun _ => .inr hi, fun _ => hf⟩, fun hb => absurd hb (by simp [hf]),
      fun hv => acceptInt_stored (hv.resolve_left (hnot hi)).2, fun hv => by rw [acceptInt_im0 hv.2]; rfl⟩
  · obtain ⟨hc, -⟩ := step_cpu_mem (cpuStep_of_halted hp hh hq) h
    obtain ⟨hn, hi⟩ := hq.resolve_left (not_not_intro hp)
    have hnone : ¬(s.cpu.nmiPending = true ∨ s.interrupted) := by
      rintro (h | ⟨-, -, h⟩)
      · simp [hn] at h
      · exact hi h
    rw [hc]
    exact ⟨⟨fun hf => absurd (hf.symm.trans hh) (by decide), fun h => absurd h hnone⟩, fun _ => rfl,
      fun h => absurd (h.imp_right And.left) hnone, fun h => absurd (.inr h.1) hnone⟩

/-! ### EI (R552) -/

/-- Settles O36: a set block makes the step quiet but for an NMI; no other instruction than EI sets it again. -/
theorem eiDelaysOneInstruction : Obligations.EiDelaysOneInstruction := by
  refine ⟨fun s t h => ?_, fun s i rest hp he hn hh hd => ?_, fun s t hp he hn h => ?_⟩
  · cases h
    rfl
  · have hclear : (s.fetched (3 - rest.length)).cpu.eiBlock = false := if_pos hp
    have hq : s.quiet := .inr ⟨hn, fun hi => by simp [he] at hi⟩
    refine ⟨hclear, fun t ht => ?_⟩
    obtain ⟨u, hu, -, rfl⟩ := step_next.mp ht
    rw [cpuStep_of_decode hh hq (hp ▸ hd)] at hu
    refine ⟨u, hu, rfl, rfl, fun hne => ?_⟩
    obtain ⟨-, -, -, -, -, -, hei, -⟩ := controlRegistersAndTheirWriters.2 i _ u hu
    by_contra hset
    exact hne (hei (by simpa [hclear] using hset))
  · obtain ⟨hc, -⟩ := step_cpu_mem (cpuStep_of_nmi hp hn) h
    rw [hc, acceptNmi_cpu]
    exact ⟨rfl, rfl, rfl⟩

end Sys2Proof.Machine
end


section
/-! PROOFS of the statements of 70_reset_and_hazards.md, and of the invariant under the host's actions. -/

namespace Sys2Proof.Machine

/-! ### Host actions (60_exceptions.md R571) -/

theorem hostReset_inv {draw s : State} (hs : s.Inv) (hd : draw.ula.buffer.wf = true) : (hostReset draw s).Inv := by
  obtain ⟨⟨hmem, -⟩, -⟩ := hs
  refine ⟨⟨hmem, hd⟩, ⟨(Nat.zero_mul _).symm, Nat.le_refl 0, ?_, ?_, Int.le_refl (-1), ?_⟩, nofun, nofun, nofun, nofun⟩
  · show 0 < 0 + frameTacts
    decide
  · show false = flashPhaseAfter 0
    decide
  · show (-1 : Int) ≤ 0
    decide

theorem loadTape_inv {s : State} (file : List Byte) (hs : s.Inv) : (loadTape file s).2.Inv := by
  obtain ⟨hcan, hula, -, hctl⟩ := hs
  unfold loadTape
  split <;> exact ⟨hcan, hula, nofun, hctl⟩

theorem startTape_inv {s t : State} (hs : s.Inv) (h : startTape s = .next t) : t.Inv := by
  obtain ⟨hcan, hula, -, hctl⟩ := hs
  obtain ⟨p, hp, ht⟩ := andThen_next.mp h
  cases ht
  exact ⟨hcan, hula, (State.tapeTimed_iff _).mpr fun _ => (TapeTime.initPlay hp).1, hctl⟩

/-- Settles O45: a reset writes its own times and control state, a started tape has its time right, a loaded one does not
play, the other actions write nothing the invariant speaks of. -/
theorem hostActionsKeepInvariant : Obligations.HostActionsKeepInvariant := by
  intro a s t hs hdraw h
  cases a with
  | reset draw =>
    cases h
    exact hostReset_inv hs (hdraw draw rfl)
  | requestNmi | setKeyboard k =>
    cases h
    exact hs
  | loadTape file =>
    cases h
    exact loadTape_inv file hs
  | startTape => exact startTape_inv hs h

/-! ### Construction (R604) -/

theorem firstBadBank_eq_none (installed : Nat) (banks : List Nat) :
    firstBadBank installed banks = none ↔ ∀ k ∈ banks, k < installed := by
  induction banks with
  | nil => simp [firstBadBank]
  | cons k rest ih =>
    by_cases hk : k < installed <;> simp [firstBadBank, hk, ih]

/-- A configuration can be built where every index is installed and the image has its length. -/
theorem Configuration.error_eq_none (c : Configuration) :
    c.error = none ↔ c.romPage < c.installedRomPages ∧ (∀ k ∈ c.ramBanks, k < c.installedRamBanks) ∧
      ∃ image, c.romImage = some image ∧ image.length = 16384 := by
  unfold Configuration.error
  rw [← firstBadBank_eq_none]
  by_cases hp : c.installedRomPages ≤ c.romPage
  · simp [hp]
  · cases firstBadBank c.installedRamBanks c.ramBanks with
    | some k => simp [hp]
    | none =>
      cases c.romImage with
      | none => simp [hp]
      | some image => by_cases hl : image.length = 16384 <;> simp [hp, Nat.lt_of_not_le hp, romLength, hl]

theorem construct_fault_iff (c : Configuration) :
    (∃ e, construct c = .fault (.configuration e)) ↔ c.error ≠ none := by
  unfold construct
  cases c.error <;> simp

/-- Memory after the host's placement of bytes that end at 0x10000 or below. -/
theorem Memory.read_place {bytes : List Byte} {n : Nat} (h : n + bytes.length ≤ 65536) (m : Memory) (k : Nat) :
    (m.place (BitVec.ofNat 16 n) bytes).read k = (if n ≤ k then bytes[k - n]? else none).getD (m.read k) := by
  induction bytes generalizing m n with
  | nil => simp [Memory.place]
  | cons b rest ih =>
    rw [List.length_cons] at h
    have hn : (BitVec.ofNat 16 n).toNat = n := Nat.mod_eq_of_lt (by omega)
    rw [Memory.place, hn, show BitVec.ofNat 16 n + 1 = BitVec.ofNat 16 (n + 1) from (BitVec.ofNat_add ..).symm,
      ih (by omega), Memory.read_store]
    obtain hlt | rfl | hgt := Nat.lt_trichotomy k n
    · rw [if_neg (by omega), if_neg (by omega), if_neg (by omega)]
    · simp
    · rw [if_pos (show n + 1 ≤ k from hgt), if_neg (by omega), if_pos (by omega), show k - n = k - (n + 1) + 1 by omega,
        List.getElem?_cons_succ]

/-- Settles O60: an error by `Configuration.error_eq_none`, the image by `Memory.read_place`. -/
theorem constructionChecksConfiguration : Obligations.ConstructionChecksConfiguration := by
  intro c
  constructor
  · rw [construct_fault_iff, ne_eq, c.error_eq_none]
    cases c.romImage <;> simp [imp_iff_not_or]
  · intro image hp hb hi hl
    have he := c.error_eq_none.mpr ⟨hp, hb, image, hi, hl⟩
    refine ⟨{ State.reset with mem := Memory.place [] 0 image }, by rw [construct, he, hi]; rfl, rfl, rfl, rfl, rfl,
      fun k => (Memory.read_place (n := 0) (by omega) [] k).trans ?_⟩
    by_cases hk : k < image.length <;> simp [hk, State.reset]

end Sys2Proof.Machine
end
